-- ==== Sys2Proof/Word.lean ====
section
/-! DEFINITION. The widths of the block: the 32-bit bus datum, the byte, and the 29-bit length registers
(spec/10_state.md R12). Samples are exact rationals (R191). -/

namespace Sys2Proof

/-- A bus datum, a bus address or a command word: 32 bits (20_memory.md R50, 30_encoding.md R80). -/
abbrev Word := BitVec 32

/-- A character, an address or command byte, or a byte of the WAV stream. -/
abbrev Byte := BitVec 8

/-- The width of SEGLEN, SMPLEN and WAVLEN (10_state.md R12). -/
abbrev Length := BitVec 29

/-- A sample: an exact rational (10_state.md R31, 45_arithmetic_control.md R191). -/
abbrev Sample := Rat

end Sys2Proof
end

