-- ==== Sys2Proof/Syntax.lean ====
section
/-! DEFINITION. The twelve commands of IRB-CMD 1 (30_encoding.md R84), one constructor per row of spec/opcode_table.json. -/

namespace Sys2Proof

/-- A command. Only RENDER has an operand of its own; every other operand is a fixed register (30_encoding.md R80). -/
inductive Instr where
  | nop
  | hexclr
  | decodehex
  | fields
  | pack
  | encframe
  | encrep
  /-- `idx` is the 24-bit unsigned segment number of format C1 (30_encoding.md R83). -/
  | render (idx : Nat)
  | assemble
  | generate
  | genword
  | towav
  deriving DecidableEq, Repr

end Sys2Proof
end

