-- ==== Sys2Proof/WellFormed.lean ====
section
/-! DEFINITION. Which commands an encoding exists for. -/

namespace Sys2Proof

/-- RENDER's segment number fits its 24-bit field (30_encoding.md R80, R83); the other commands have no operand. -/
def Instr.wellFormed : Instr → Bool
  | .render idx => decide (idx < 2 ^ 24)
  | .nop => true
  | .hexclr => true
  | .decodehex => true
  | .fields => true
  | .pack => true
  | .encframe => true
  | .encrep => true
  | .assemble => true
  | .generate => true
  | .genword => true
  | .towav => true

end Sys2Proof
end

