-- ==== Sys2Proof/Decode.lean ====
section
/-! DEFINITION. The decoder of command words (30_encoding.md R86), total and rejecting by name, and the encoder. -/

namespace Sys2Proof

/-- Why a word spells no command (30_encoding.md R85). -/
inductive Reject where
  /-- `d[7:0]` is above 0x0B. -/
  | noSuchOpcode
  /-- A format C0 opcode with `d[31:8]` not 0. -/
  | upperBitsNotZero
  deriving DecidableEq, Repr

/-- What decoding a word gives. -/
inductive Decoded where
  | command (i : Instr)
  | illegal (r : Reject)
  deriving DecidableEq, Repr

/-- `opcode = d[7:0]` (30_encoding.md R80). -/
def opcodeOf (d : Word) : Nat := (d.extractLsb' 0 8).toNat

/-- `d[31:8]`: `zero` of format C0, `idx` of format C1 (30_encoding.md R80). -/
def upperOf (d : Word) : Nat := (d.extractLsb' 8 24).toNat

/-- The opcode map (30_encoding.md R84); `idx` is used by RENDER alone. -/
def commandOf (opcode idx : Nat) : Option Instr :=
  match opcode with
  | 0x00 => some .nop
  | 0x01 => some .hexclr
  | 0x02 => some .decodehex
  | 0x03 => some .fields
  | 0x04 => some .pack
  | 0x05 => some .encframe
  | 0x06 => some .encrep
  | 0x07 => some (.render idx)
  | 0x08 => some .assemble
  | 0x09 => some .generate
  | 0x0A => some .genword
  | 0x0B => some .towav
  | _ => none

/-- Decoding in the order of 30_encoding.md R86: the opcode, then the upper bits of every command but RENDER. It reads no state. -/
def decode (d : Word) : Decoded :=
  match commandOf (opcodeOf d) (upperOf d) with
  | none => .illegal .noSuchOpcode
  | some i => if opcodeOf d ≠ 0x07 ∧ upperOf d ≠ 0 then .illegal .upperBitsNotZero else .command i

/-- The command of a decoding, if it is one. -/
def Decoded.command? : Decoded → Option Instr
  | .command i => some i
  | .illegal _ => none

/-- The opcode of a command (30_encoding.md R84). -/
def Instr.opcode : Instr → Byte
  | .nop => 0x00
  | .hexclr => 0x01
  | .decodehex => 0x02
  | .fields => 0x03
  | .pack => 0x04
  | .encframe => 0x05
  | .encrep => 0x06
  | .render _ => 0x07
  | .assemble => 0x08
  | .generate => 0x09
  | .genword => 0x0A
  | .towav => 0x0B

/-- The content of bits 31:8: RENDER's segment number, 0 in format C0 (30_encoding.md R80). -/
def Instr.upper : Instr → BitVec 24
  | .render idx => BitVec.ofNat 24 idx
  | .nop => 0
  | .hexclr => 0
  | .decodehex => 0
  | .fields => 0
  | .pack => 0
  | .encframe => 0
  | .encrep => 0
  | .assemble => 0
  | .generate => 0
  | .genword => 0
  | .towav => 0

/-- The command word (30_encoding.md R80): bits 31:8 in front, the opcode in bits 7:0. -/
def encode (i : Instr) : Word := i.upper ++ i.opcode

/-- The `mask` of a command's row in spec/opcode_table.json (30_encoding.md R84, match and mask form). -/
def Instr.tableMask : Instr → Word
  | .render _ => 0x000000FF
  | .nop => 0xFFFFFFFF
  | .hexclr => 0xFFFFFFFF
  | .decodehex => 0xFFFFFFFF
  | .fields => 0xFFFFFFFF
  | .pack => 0xFFFFFFFF
  | .encframe => 0xFFFFFFFF
  | .encrep => 0xFFFFFFFF
  | .assemble => 0xFFFFFFFF
  | .generate => 0xFFFFFFFF
  | .genword => 0xFFFFFFFF
  | .towav => 0xFFFFFFFF

/-- The `match` of a command's row in spec/opcode_table.json. -/
def Instr.tableMatch : Instr → Word
  | .nop => 0x00000000
  | .hexclr => 0x00000001
  | .decodehex => 0x00000002
  | .fields => 0x00000003
  | .pack => 0x00000004
  | .encframe => 0x00000005
  | .encrep => 0x00000006
  | .render _ => 0x00000007
  | .assemble => 0x00000008
  | .generate => 0x00000009
  | .genword => 0x0000000A
  | .towav => 0x0000000B

/-- The command the decoder reads from a word whose low `nbits` bits are those of `w`, the bits above them 0.
A command is one 32-bit datum, so no byte order enters (20_memory.md R53). -/
def decodeTableWord (nbits w : Nat) : Option Instr :=
  (decode (BitVec.ofNat 32 (w % 2 ^ nbits))).command?

end Sys2Proof
end

