-- ==== Sys2Proof/Config.lean ====
section
/-! DEFINITION. What an implementation fixes (00_scope.md section 4, the OPEN parameters) and the values the
spec leaves free (93_implementation_defined.md U1 to U3, U6 to U8). -/

namespace Sys2Proof

/-- The bound on each capacity, from the 28-bit index of a bus address (00_scope.md section 4, U6). -/
abbrev capBound : Nat := 2 ^ 28

/-- The OPEN parameters that are numbers (00_scope.md section 4). DESIGN CHOICE, safe (log entry 3): they are
plain data that State carries and no step changes, so that a statement about every state holds for every value of them. -/
structure Params where
  /-- SEG_CAP, in segments. -/
  segCap : Fin (capBound + 1)
  /-- SMP_CAP, in samples per channel. -/
  smpCap : Fin (capBound + 1)
  /-- WAV_CAP, in bytes. -/
  wavCap : Fin (capBound + 1)
  /-- BUSY_POLLS: how many STATUS reads after a command may return BUSY = 1 (20_memory.md R64). -/
  busyPolls : Nat
  deriving DecidableEq, Repr

/-- The spec's defaults: each capacity 2^28, BUSY_POLLS 0 (00_scope.md section 4). -/
def Params.reference : Params :=
  { segCap := Fin.last capBound, smpCap := Fin.last capBound, wavCap := Fin.last capBound, busyPolls := 0 }

/-- SIN, the OPEN sine of mode MONO_SINE (U7): a function of the phase alone, with no value given.
Its range is cut to [-1, 1] where it is used (`Machine.sine`, log entry 4). -/
opaque Config.sine : Rat → Rat

/-- The value an unspecified read returns (U1, U2, U3), one for each value of the draw counter. Free: no body. -/
opaque Config.freeWord : Nat → Word

/-- How long a busy window lasts on an implementation with BUSY_POLLS > 0 (20_memory.md R64), one for each value
of the draw counter. Free: no body; it is cut to 0 .. BUSY_POLLS where it is used (`Machine.openBusyWindow`). -/
opaque Config.freePolls : Nat → Nat

end Sys2Proof
end

