-- ==== Sys2Proof/Machine/State.lean ====
section
/-! DEFINITION. The state of one block (10_state.md R11), its reset value (R40), and the reasons a step can stop.
All of it is plain data. -/

namespace Sys2Proof.Machine

/-- Pulse: the carrier is emitted. Space: it is not (00_scope.md section 6). -/
inductive SegKind where
  | space
  | pulse
  deriving DecidableEq, Repr

/-- An entry of SEG: a kind and a duration in ticks of 0.5 µs (10_state.md R30). -/
structure Segment where
  kind : SegKind
  ticks : Nat
  deriving DecidableEq, Repr

/-- The configuration registers, the fields of GeneratorConfig (10_state.md R12, R14). -/
structure GenConfig where
  /-- CARRIER_HZ -/
  carrierHz : Word
  /-- SAMPLE_HZ -/
  sampleHz : Word
  /-- MODE -/
  mode : BitVec 2
  /-- DUTY, per-mille -/
  duty : BitVec 16
  /-- COMP, per-mille -/
  comp : BitVec 16
  /-- REPEAT -/
  rep : Word
  /-- GAP_US, microseconds -/
  gapUs : BitVec 30
  /-- AMP, per-mille -/
  amp : BitVec 16
  /-- AMP_IDLE, per-mille -/
  ampIdle : BitVec 16
  deriving DecidableEq, Repr

/-- What the outside world does to the block: the two bus transactions (20_memory.md R50) and the reset input
(70_reset_and_hazards.md R250). -/
inductive BusEvent where
  | read (a : Word)
  | write (a d : Word)
  | reset
  deriving DecidableEq, Repr

/-- The architectural state (10_state.md R11) and, after it, the model's own fields. -/
structure State where
  /-- OP, the last command word written (R16). -/
  op : Word
  /-- STATUS: BUSY 0, DONE 1, ERR 2, bit 3 reads 0, ERRCODE 5:4 (R15). -/
  status : BitVec 6
  /-- HEXLEN, characters pushed, saturating at 255 (R13). -/
  hexlen : Byte
  /-- HEXBUF[0..15] (R13). -/
  hexbuf : Vector Byte 16
  /-- WORD, a CommandWord (R13). -/
  word : Word
  /-- ADDR (R13). -/
  addr : Byte
  /-- CMDB (R13). -/
  cmdb : Byte
  /-- The configuration registers (R14). -/
  cfg : GenConfig
  /-- SEGLEN (R17). -/
  seglen : Length
  /-- SMPLEN (R17). -/
  smplen : Length
  /-- SMPCH (R17). -/
  smpch : BitVec 2
  /-- WAVLEN (R17). -/
  wavlen : Length
  /-- The segment memory SEG (R30). -/
  seg : List Segment
  /-- The left or only channel SMPL (R31). -/
  smpl : List Sample
  /-- The right channel SMPR (R32). -/
  smpr : List Sample
  /-- The WAV byte memory (R33). -/
  wav : List Byte
  /-- The model's own: the open parameters, which no step changes (log entry 3). -/
  params : Params
  /-- The model's own: how many more STATUS reads return BUSY = 1 (20_memory.md R64, log entry 6). -/
  pollsLeft : Nat
  /-- The model's own: the counter the free values are taken at (log entries 5 and 6). -/
  draws : Nat
  /-- The model's own: what the host and the reset input do next, oldest first (log entry 1). -/
  pending : List BusEvent
  /-- The model's own: the datum the last transaction returned to the host (log entry 7). -/
  reply : Option Word
  deriving DecidableEq, Repr

/-- There is no way a step faults: nothing in the spec is stuck, and nothing architected is a fault beyond the three
error kinds, which are next states (93_implementation_defined.md part 2; log entry 16). -/
inductive Fault where
  deriving DecidableEq, Repr

/-- Why the spec gives a situation no meaning (60_exceptions.md R237). -/
inductive Refusal where
  /-- An instruction without a meaning yet; raised by `exec` alone. Safe. -/
  | notModelled (mnemonic : String)
  /-- The segment list exceeds SEG_CAP; raised by ENCFRAME, ENCREP, GENERATE, GENWORD (20_memory.md R60). Safe. -/
  | segCapacity
  /-- The sample count exceeds SMP_CAP; raised by RENDER, ASSEMBLE, GENERATE, GENWORD (20_memory.md R60). Safe. -/
  | smpCapacity
  /-- The stream exceeds WAV_CAP; raised by TOWAV (20_memory.md R60). Safe. -/
  | wavCapacity
  /-- The byte rate does not fit 32 bits; raised by TOWAV (20_memory.md R60). Safe. -/
  | byteRateOverflow
  /-- A transaction other than a STATUS read while BUSY = 1; raised by the bus (20_memory.md R64, U3b). Safe. -/
  | transactionWhileBusy
  deriving DecidableEq, Repr

/-- What a step or a command answers. -/
abbrev Result := Host.Outcome State Fault Refusal

/-- The configuration after reset (10_state.md R40). -/
def GenConfig.reset : GenConfig :=
  { carrierHz := 38000, sampleHz := 192000, mode := 0, duty := 700, comp := 1000, rep := 1, gapUs := 40000,
    amp := 800, ampIdle := 10 }

/-- The state after reset (10_state.md R40); the model's own fields as log entry 13 says. -/
def State.reset : State :=
  { op := 0, status := 0, hexlen := 0, hexbuf := Vector.replicate 16 0, word := 0, addr := 0, cmdb := 0,
    cfg := GenConfig.reset, seglen := 0, smplen := 0, smpch := 0, wavlen := 0, seg := [], smpl := [], smpr := [],
    wav := [], params := Params.reference, pollsLeft := 0, draws := 0, pending := [], reply := none }

end Sys2Proof.Machine
end

