-- ==== Sys2Proof/Machine/Flags.lean ====
section
/-! DEFINITION. STATUS, the block's only flag register (10_state.md R15): its fields and the values a command leaves. -/

namespace Sys2Proof.Machine

/-- The three error kinds (60_exceptions.md R220). -/
inductive ErrorKind where
  | formatError
  | invalidArgument
  | illegalCommand
  deriving DecidableEq, Repr

/-- ERRCODE of an error kind (60_exceptions.md R220). -/
def errorCode : ErrorKind → BitVec 2
  | .formatError => 1
  | .invalidArgument => 2
  | .illegalCommand => 3

/-- BUSY, bit 0 (10_state.md R15). -/
def statusBusy (v : BitVec 6) : Bool := v.getLsbD 0

/-- DONE, bit 1 (10_state.md R15). -/
def statusDone (v : BitVec 6) : Bool := v.getLsbD 1

/-- ERR, bit 2 (10_state.md R15). -/
def statusErr (v : BitVec 6) : Bool := v.getLsbD 2

/-- ERRCODE, bits 5:4 (10_state.md R15). -/
def statusErrCode (v : BitVec 6) : BitVec 2 := v.extractLsb' 4 2

/-- A STATUS value from its fields; bit 3 is 0 (10_state.md R15). -/
def packStatus (errCode : BitVec 2) (err done busy : Bool) : BitVec 6 :=
  errCode ++ (0#1 ++ (BitVec.ofBool err ++ (BitVec.ofBool done ++ BitVec.ofBool busy)))

/-- STATUS after a normal end: BUSY 0, DONE 1, ERR 0, ERRCODE 0, that is 0x02 (60_exceptions.md R225). -/
def statusNormalEnd : BitVec 6 := packStatus 0 false true false

/-- STATUS after an error: BUSY 0, DONE 1, ERR 1, ERRCODE the kind's code (60_exceptions.md R226). -/
def statusErrorEnd (k : ErrorKind) : BitVec 6 := packStatus (errorCode k) true true false

/-- STATUS with BUSY set or cleared, the other fields kept. -/
def setBusyBit (busy : Bool) (v : BitVec 6) : BitVec 6 :=
  packStatus (statusErrCode v) (statusErr v) (statusDone v) busy

/-- What a STATUS read returns while BUSY = 1: bit 0 is 1, bits 2, 1 and 5:4 are those of the free value `free`, every other
bit is 0 (93_implementation_defined.md U3). -/
def busyStatusWord (free : Word) : Word :=
  (packStatus (free.extractLsb' 4 2) (free.getLsbD 2) (free.getLsbD 1) true).setWidth 32

/-- BUSY of the state: a command's busy window is open (20_memory.md R64). -/
def State.busy (s : State) : Bool := statusBusy s.status

end Sys2Proof.Machine
end

