-- ==== Sys2Proof/Machine/Ops.lean ====
section
/-! DEFINITION. The named operations over registers and memories, and the two ways a command ends: the normal end and
the error entry (60_exceptions.md R225, R226). -/

namespace Sys2Proof.Machine

/-! ## Registers -/

/-- Stores the command word in OP (10_state.md R16). -/
def State.setOp (d : Word) (s : State) : State := { s with op := d }

/-- Sets STATUS. -/
def State.setStatus (v : BitVec 6) (s : State) : State := { s with status := v }

/-- Writes WORD. -/
def State.setWord (w : Word) (s : State) : State := { s with word := w }

/-- Writes ADDR and CMDB (40_hexcodec.md R113, 43_assembler.md R184). -/
def State.setAddrCmdb (a c : Byte) (s : State) : State := { s with addr := a, cmdb := c }

/-- Empties the hex string buffer (40_hexcodec.md R111). -/
def State.clearHex (s : State) : State := { s with hexlen := 0, hexbuf := Vector.replicate 16 0 }

/-- Appends a character: stored if fewer than 16 are held, counted up to 255 (20_memory.md R55). -/
def State.pushHex (c : Byte) (s : State) : State :=
  { s with
    hexbuf := s.hexbuf.setIfInBounds s.hexlen.toNat c
    hexlen := if s.hexlen.toNat < 255 then s.hexlen + 1 else s.hexlen }

/-! ## Memories: a command replaces a memory whole, its length register with it (10_state.md R35) -/

/-- The length register's value for a sequence of `n` entries. -/
def lengthReg (n : Nat) : Length := BitVec.ofNat 29 n

/-- `SEG <- segs`. -/
def State.setSeg (segs : List Segment) (s : State) : State :=
  { s with seg := segs, seglen := lengthReg segs.length }

/-- `SMPL <- l`, `SMPR <- r`, SMPLEN and SMPCH with them (10_state.md R17, R31, R32). -/
def State.setBuffer (channels : BitVec 2) (l r : List Sample) (s : State) : State :=
  { s with smpl := l, smpr := r, smplen := lengthReg l.length, smpch := channels }

/-- `WAV <- out`. -/
def State.setWav (out : List Byte) (s : State) : State :=
  { s with wav := out, wavlen := lengthReg out.length }

/-- The valid entries of SEG, `SEG[0 .. SEGLEN - 1]` (10_state.md R30). -/
def State.validSegs (s : State) : List Segment := s.seg.take s.seglen.toNat

/-- The valid entries of SMPL, `SMPL[0 .. SMPLEN - 1]` (10_state.md R31). -/
def State.validLeft (s : State) : List Sample := s.smpl.take s.smplen.toNat

/-- The valid entries of SMPR when SMPCH = 2 (10_state.md R32). -/
def State.validRight (s : State) : List Sample := s.smpr.take s.smplen.toNat

/-- The valid bytes of WAV, `WAV[0 .. WAVLEN - 1]` (10_state.md R33). -/
def State.validWav (s : State) : List Byte := s.wav.take s.wavlen.toNat

/-! ## The ends of a command -/

/-- The normal end: STATUS becomes 0x02; what the command wrote is already written (60_exceptions.md R225). -/
def normalEnd (s : State) : Result := .next (s.setStatus statusNormalEnd)

/-- The error entry, the one operation every error goes through (60_exceptions.md R226): STATUS becomes BUSY 0, DONE 1,
ERR 1 and the kind's code, and nothing else changes. OP holds the command word already. Nothing is saved, no handler
exists, and there is no return to model (R227): the block is idle and takes the next command. -/
def raise (k : ErrorKind) (s : State) : Result := .next (s.setStatus (statusErrorEnd k))

/-- A command refused: no next state (60_exceptions.md R237). -/
def refuse (r : Refusal) : Result := .refused r

/-- Applies a change of state to a next state; a stop stays a stop. -/
def onNext (f : State → State) : Result → Result
  | .next s => .next (f s)
  | .fault x => .fault x
  | .refused x => .refused x

/-- The hardware reset (70_reset_and_hazards.md R250): every piece of the block's state takes its value of 10_state.md
R40. The open parameters are the implementation's and stay; so do the model's record of what the host does next and
its draw counter (log entry 11). -/
def State.hardReset (s : State) : State :=
  { State.reset with params := s.params, draws := s.draws, pending := s.pending }

/-! ## The busy window (20_memory.md R64) -/

/-- After a write to OP, on an implementation with BUSY_POLLS > 0: a free number of STATUS reads, at most BUSY_POLLS,
return BUSY = 1. With the reference value 0 nothing happens. -/
def State.openBusyWindow (s : State) : State :=
  if s.params.busyPolls = 0 then s
  else
    let n := Config.freePolls s.draws % (s.params.busyPolls + 1)
    { s with draws := s.draws + 1, pollsLeft := n, status := setBusyBit (decide (0 < n)) s.status }

/-- A STATUS read while BUSY = 1: it returns BUSY = 1 with the other fields free, and one poll fewer is left. -/
def State.pollBusy (s : State) : State :=
  { s with
    reply := some (busyStatusWord (Config.freeWord s.draws))
    draws := s.draws + 1
    pollsLeft := s.pollsLeft - 1
    status := setBusyBit (decide (1 < s.pollsLeft)) s.status }

/-! ## Byte order (00_scope.md section 5.1, 20_memory.md R53) -/

/-- The two bytes of a 16-bit value, least significant first. -/
def le16 (v : BitVec 16) : List Byte := [v.extractLsb' 0 8, v.extractLsb' 8 8]

/-- The four bytes of a 32-bit value, least significant first. -/
def le32 (v : Word) : List Byte :=
  [v.extractLsb' 0 8, v.extractLsb' 8 8, v.extractLsb' 16 8, v.extractLsb' 24 8]

end Sys2Proof.Machine
end

