-- ==== Sys2Proof/Machine/Operands.lean ====
section
/-! DEFINITION. Operand forms: bus addresses and register slots (20_memory.md R50, 10_state.md R12), the hex string
operand (40_hexcodec.md R112), CommandWord fields (R113, R114), the mode and gap operands (30_encoding.md R83), and the
legality checks (60_exceptions.md R222). -/

namespace Sys2Proof.Machine

/-! ## Bus addresses -/

/-- The five address spaces (20_memory.md R50). -/
inductive Space where
  | reg
  | seg
  | smpl
  | smpr
  | wav
  deriving DecidableEq, Repr

/-- `a[31:28]` selects the space; 0x5 to 0xF are reserved (20_memory.md R50). -/
def spaceOf (a : Word) : Option Space :=
  match (a.extractLsb' 28 4).toNat with
  | 0x0 => some .reg
  | 0x1 => some .seg
  | 0x2 => some .smpl
  | 0x3 => some .smpr
  | 0x4 => some .wav
  | _ => none

/-- `idx = a[27:0]` (20_memory.md R50). -/
def indexOf (a : Word) : Nat := (a.extractLsb' 0 28).toNat

/-- The implemented register slots (10_state.md R12). -/
inductive Slot where
  | op
  | status
  | hexpush
  | hexlen
  | word
  | addr
  | cmdb
  | carrierHz
  | sampleHz
  | mode
  | duty
  | comp
  | rep
  | gapUs
  | amp
  | ampIdle
  | seglen
  | smplen
  | smpch
  | wavlen
  | hexbuf (i : Fin 16)
  deriving DecidableEq, Repr

/-- The slot of a number (10_state.md R12); `none` for a reserved number. -/
def slotOf (n : Nat) : Option Slot :=
  match n with
  | 0x00 => some .op
  | 0x01 => some .status
  | 0x02 => some .hexpush
  | 0x03 => some .hexlen
  | 0x04 => some .word
  | 0x05 => some .addr
  | 0x06 => some .cmdb
  | 0x08 => some .carrierHz
  | 0x09 => some .sampleHz
  | 0x0A => some .mode
  | 0x0B => some .duty
  | 0x0C => some .comp
  | 0x0D => some .rep
  | 0x0E => some .gapUs
  | 0x0F => some .amp
  | 0x10 => some .ampIdle
  | 0x18 => some .seglen
  | 0x19 => some .smplen
  | 0x1A => some .smpch
  | 0x1B => some .wavlen
  | n => if h : 0x20 ≤ n ∧ n < 0x30 then some (.hexbuf ⟨n - 0x20, by omega⟩) else none

/-- The number of a slot (10_state.md R12). -/
def Slot.number : Slot → Nat
  | .op => 0x00
  | .status => 0x01
  | .hexpush => 0x02
  | .hexlen => 0x03
  | .word => 0x04
  | .addr => 0x05
  | .cmdb => 0x06
  | .carrierHz => 0x08
  | .sampleHz => 0x09
  | .mode => 0x0A
  | .duty => 0x0B
  | .comp => 0x0C
  | .rep => 0x0D
  | .gapUs => 0x0E
  | .amp => 0x0F
  | .ampIdle => 0x10
  | .seglen => 0x18
  | .smplen => 0x19
  | .smpch => 0x1A
  | .wavlen => 0x1B
  | .hexbuf i => 0x20 + i.val

/-- The base address of a space (20_memory.md R50). -/
def Space.base : Space → Word
  | .reg => 0x00000000
  | .seg => 0x10000000
  | .smpl => 0x20000000
  | .smpr => 0x30000000
  | .wav => 0x40000000

/-- The bus address of entry `idx` of a space. -/
def Space.address (sp : Space) (idx : Nat) : Word := sp.base + BitVec.ofNat 32 idx

/-- The bus address of a register slot. -/
def Slot.address (r : Slot) : Word := Space.reg.address r.number

/-- The slot a bus address selects; `none` outside the REG space and for a reserved number. -/
def targetSlot (a : Word) : Option Slot :=
  match spaceOf a with
  | some .reg => slotOf (indexOf a)
  | some .seg => none
  | some .smpl => none
  | some .smpr => none
  | some .wav => none
  | none => none

/-! ## The hex string operand of DECODEHEX (40_hexcodec.md R112) -/

/-- The string `HEXBUF[0 .. HEXLEN-1]`, or `none` when HEXLEN > 10. -/
def State.hexString (s : State) : Option (List Byte) :=
  if 10 < s.hexlen.toNat then none else some (s.hexbuf.toList.take s.hexlen.toNat)

/-- Strips one "0x" or "0X" prefix. -/
def stripPrefix (cs : List Byte) : List Byte :=
  match cs with
  | c0 :: c1 :: rest => if c0 = 0x30 ∧ (c1 = 0x78 ∨ c1 = 0x58) then rest else cs
  | [_] => cs
  | [] => cs

/-- The value of an ASCII hex digit, both letter cases. -/
def hexDigit (c : Byte) : Option Nat :=
  if 0x30 ≤ c.toNat ∧ c.toNat ≤ 0x39 then some (c.toNat - 0x30)
  else if 0x41 ≤ c.toNat ∧ c.toNat ≤ 0x46 then some (c.toNat - 0x37)
  else if 0x61 ≤ c.toNat ∧ c.toNat ≤ 0x66 then some (c.toNat - 0x57)
  else none

/-- `v * 16 + dgt` over the characters, first digit most significant; `none` at a character that is no hex digit. -/
def hexValue (v : Nat) (cs : List Byte) : Option Nat :=
  match cs with
  | [] => some v
  | c :: rest =>
    match hexDigit c with
    | none => none
    | some dgt => hexValue (v * 16 + dgt) rest

/-- The whole of DECODEHEX's parse: strip the prefix, require exactly 8 characters, read the digits. -/
def parseHex (cs : List Byte) : Option Word :=
  if (stripPrefix cs).length = 8 then (hexValue 0 (stripPrefix cs)).map (BitVec.ofNat 32) else none

/-! ## CommandWord fields (30_encoding.md R89) -/

/-- `word[31:24]` -/
def addressField (w : Word) : Byte := w.extractLsb' 24 8

/-- `word[23:16]` -/
def invAddressField (w : Word) : Byte := w.extractLsb' 16 8

/-- `word[15:8]` -/
def commandField (w : Word) : Byte := w.extractLsb' 8 8

/-- `word[7:0]` -/
def invCommandField (w : Word) : Byte := w.extractLsb' 0 8

/-- `~8(b) = 255 - b` (00_scope.md section 5.1). -/
def complement8 (b : Byte) : Byte := b ^^^ 0xFF

/-- The CommandWord of an address and a command, with the complements (40_hexcodec.md R114). -/
def commandWord (a c : Byte) : Word := a ++ (complement8 a ++ (c ++ complement8 c))

/-! ## Mode, gap and rates (30_encoding.md R83) -/

/-- The modulation styles (10_state.md R14, MODE). -/
inductive Modulation where
  | stereoDiff
  | monoSquare
  | monoSine
  deriving DecidableEq, Repr

/-- MODE; code 3 is no style. -/
def modulationOf (m : BitVec 2) : Option Modulation :=
  match m.toNat with
  | 0 => some .stereoDiff
  | 1 => some .monoSquare
  | 2 => some .monoSine
  | _ => none

/-- The channel count of a buffer rendered in a style (42_carrier_synth.md R158). -/
def channelCount : Modulation → BitVec 2
  | .stereoDiff => 2
  | .monoSquare => 1
  | .monoSine => 1

/-- The gap segment, `2 * GAP_US` ticks of Space (30_encoding.md R83). -/
def gapSegment (cfg : GenConfig) : Segment := { kind := .space, ticks := 2 * cfg.gapUs.toNat }

/-- A per-mille register as an exact fraction (30_encoding.md R83). -/
def perMille (v : BitVec 16) : Rat := (v.toNat : Rat) / 1000

/-! ## Legality (60_exceptions.md R222) -/

/-- The render checks V1 to V7 (42_carrier_synth.md R150): the style to render in, or `none` when a check fails. -/
def renderStyle (cfg : GenConfig) : Option Modulation :=
  if cfg.sampleHz = 0 ∨ cfg.carrierHz = 0 ∨ 1000 < cfg.duty.toNat ∨ cfg.comp = 0 ∨
      cfg.amp = 0 ∨ 1000 < cfg.amp.toNat ∨ 1000 < cfg.ampIdle.toNat then none
  else modulationOf cfg.mode

end Sys2Proof.Machine
end

