-- ==== Sys2Proof/Machine/CarrierSynth.lean ====
section
/-! DEFINITION. The CarrierSynthesizer (42_carrier_synth.md): sample count, carrier phase, sample values by mode, RENDER. -/

namespace Sys2Proof.Machine

/-- `N(ticks)`, one exact floor division (42_carrier_synth.md R151). -/
def sampleCount (cfg : GenConfig) (ticks : Nat) : Nat :=
  ticks * cfg.comp.toNat * cfg.sampleHz.toNat / 2000000000

/-- The total of a list, each segment floored by itself (42_carrier_synth.md R152). -/
def totalSamples (cfg : GenConfig) (segs : List Segment) : Nat :=
  (segs.map fun g => sampleCount cfg g.ticks).sum

/-- The phase numerator `p(i) = (i * fc) mod fs` (42_carrier_synth.md R153). -/
def phaseNum (cfg : GenConfig) (i : Nat) : Nat := i * cfg.carrierHz.toNat % cfg.sampleHz.toNat

/-- `on(i)` (42_carrier_synth.md R153). -/
def carrierOn (cfg : GenConfig) (i : Nat) : Bool :=
  decide (phaseNum cfg i * 1000 < cfg.duty.toNat * cfg.sampleHz.toNat)

/-- `hi(i)`, the 50 % version (42_carrier_synth.md R153). -/
def carrierHigh (cfg : GenConfig) (i : Nat) : Bool :=
  decide (phaseNum cfg i * 2 < cfg.sampleHz.toNat)

/-- `A = AMP / 1000` -/
def amplitude (cfg : GenConfig) : Rat := perMille cfg.amp

/-- `a = AMP_IDLE / 1000` -/
def idleAmplitude (cfg : GenConfig) : Rat := perMille cfg.ampIdle

/-- SIN: the open sine, cut to its range [-1, 1] (42_carrier_synth.md R157; log entry 4). -/
def sine (phase : Rat) : Rat := max (-1) (min 1 (Config.sine phase))

/-- The left or only channel at sample `i` of a segment (42_carrier_synth.md R154 to R157). -/
def leftSample (m : Modulation) (kind : SegKind) (cfg : GenConfig) (i : Nat) : Sample :=
  match m, kind with
  | .stereoDiff, .pulse => if carrierOn cfg i then amplitude cfg else -amplitude cfg
  | .stereoDiff, .space => if carrierHigh cfg i then idleAmplitude cfg else -idleAmplitude cfg
  | .monoSquare, .pulse => if carrierOn cfg i then amplitude cfg else 0
  | .monoSquare, .space => 0
  | .monoSine, .pulse =>
    amplitude cfg * (1 + sine ((phaseNum cfg i : Rat) / (cfg.sampleHz.toNat : Rat))) / 2
  | .monoSine, .space => 0

/-- The right channel of the stereo style (42_carrier_synth.md R154, R155). -/
def rightSample (kind : SegKind) (cfg : GenConfig) (i : Nat) : Sample :=
  match kind with
  | .pulse => if carrierOn cfg i then -amplitude cfg else amplitude cfg
  | .space => if carrierHigh cfg i then idleAmplitude cfg else -idleAmplitude cfg

/-- The left sequence of `RENDERSEG` (42_carrier_synth.md R159). -/
def renderLeft (m : Modulation) (cfg : GenConfig) (g : Segment) : List Sample :=
  (List.range (sampleCount cfg g.ticks)).map (leftSample m g.kind cfg)

/-- The right sequence of `RENDERSEG`, none in a mono style (42_carrier_synth.md R159). -/
def renderRight (m : Modulation) (cfg : GenConfig) (g : Segment) : List Sample :=
  match m with
  | .stereoDiff => (List.range (sampleCount cfg g.ticks)).map (rightSample g.kind cfg)
  | .monoSquare => []
  | .monoSine => []

/-- The rendering of a list of segments into the sample buffer, in order, with no gap and no overlap (43_assembler.md R180):
refused over SMP_CAP (20_memory.md R60), else written whole. RENDER uses it on one segment. -/
def renderInto (m : Modulation) (segs : List Segment) (s : State) : Result :=
  if s.params.smpCap.val < totalSamples s.cfg segs then refuse .smpCapacity
  else normalEnd (s.setBuffer (channelCount m) (segs.flatMap (renderLeft m s.cfg)) (segs.flatMap (renderRight m s.cfg)))

/-- RENDER idx (42_carrier_synth.md R160); an index at or past SEGLEN is check V11. -/
def execRender (idx : Nat) (s : State) : Result :=
  match renderStyle s.cfg with
  | none => raise .invalidArgument s
  | some m =>
    match s.validSegs[idx]? with
    | none => raise .invalidArgument s
    | some g => renderInto m [g] s

end Sys2Proof.Machine
end

