-- ==== Sys2Proof/Machine/TimingModel.lean ====
section
/-! DEFINITION. The NEC code and the TimingModel commands ENCFRAME and ENCREP (41_timing_model.md). -/

namespace Sys2Proof.Machine

/-! ## The NEC code (41_timing_model.md R130), durations in ticks of 0.5 µs -/

/-- 9000 µs -/
def leaderPulse : Segment := { kind := .pulse, ticks := 18000 }

/-- 4500 µs -/
def leaderSpace : Segment := { kind := .space, ticks := 9000 }

/-- 562.5 µs, before every data bit and at the end of a frame. -/
def bitPulse : Segment := { kind := .pulse, ticks := 1125 }

/-- 1687.5 µs after the pulse of a 1, 562.5 µs after the pulse of a 0. -/
def bitSpace (v : Bool) : Segment := { kind := .space, ticks := if v then 3375 else 1125 }

/-- The payload in transmission order: address, complement, command, complement (41_timing_model.md R131 step 2). -/
def payload (a c : Byte) : List Byte := [a, complement8 a, c, complement8 c]

/-- The 16 segments of a payload byte, bits least significant first (41_timing_model.md R131 step 3). -/
def byteSegments (v : Byte) : List Segment :=
  (List.range 8).flatMap fun b => [bitPulse, bitSpace (v.getLsbD b)]

/-- `FRAME(a, c)`, 67 segments (41_timing_model.md R131). -/
def frame (a c : Byte) : List Segment :=
  [leaderPulse, leaderSpace] ++ (payload a c).flatMap byteSegments ++ [bitPulse]

/-- The list ENCREP builds (41_timing_model.md R133): `rep` frames, the gap between them, and one final gap. -/
def repeatedFrames (a c : Byte) (gap : Segment) (rep : Nat) : List Segment :=
  ((List.range rep).flatMap fun r => frame a c ++ if r < rep - 1 then [gap] else []) ++ [gap]

/-- ENCFRAME (41_timing_model.md R132); check V9 of 60_exceptions.md R222. -/
def execEncframe (s : State) : Result :=
  if s.cfg.gapUs = 0 then raise .invalidArgument s
  else if s.params.segCap.val < 68 then refuse .segCapacity
  else normalEnd (s.setSeg (frame s.addr s.cmdb ++ [gapSegment s.cfg]))

/-- ENCREP (41_timing_model.md R133); checks V8 and V9 of 60_exceptions.md R222. -/
def execEncrep (s : State) : Result :=
  if s.cfg.rep = 0 ∨ s.cfg.gapUs = 0 then raise .invalidArgument s
  else if s.params.segCap.val < 68 * s.cfg.rep.toNat then refuse .segCapacity
  else normalEnd (s.setSeg (repeatedFrames s.addr s.cmdb (gapSegment s.cfg) s.cfg.rep.toNat))

end Sys2Proof.Machine
end

