-- ==== Sys2Proof/Machine/Assembler.lean ====
section
/-! DEFINITION. The SignalAssembler and the composite commands: ASSEMBLE, GENERATE, GENWORD (43_assembler.md). -/

namespace Sys2Proof.Machine

/-- ASSEMBLE (43_assembler.md R181). -/
def execAssemble (s : State) : Result :=
  match renderStyle s.cfg with
  | none => raise .invalidArgument s
  | some m => renderInto m s.validSegs s

/-- GENERATE's body once every check has passed (43_assembler.md R183): the list ENCREP builds, then its rendering. -/
def generateInto (m : Modulation) (s : State) : Result :=
  if s.params.segCap.val < 68 * s.cfg.rep.toNat then refuse .segCapacity
  else
    let segs := repeatedFrames s.addr s.cmdb (gapSegment s.cfg) s.cfg.rep.toNat
    renderInto m segs (s.setSeg segs)

/-- The checks of GENERATE, V1 to V9 (43_assembler.md R183): the style to render in, or `none`. -/
def generateStyle (cfg : GenConfig) : Option Modulation :=
  if cfg.rep = 0 ∨ cfg.gapUs = 0 then none else renderStyle cfg

/-- GENERATE (43_assembler.md R183). -/
def execGenerate (s : State) : Result :=
  match generateStyle s.cfg with
  | none => raise .invalidArgument s
  | some m => generateInto m s

/-- GENWORD (43_assembler.md R184): the checks, then ADDR and CMDB from WORD, then GENERATE's body. -/
def execGenword (s : State) : Result :=
  match generateStyle s.cfg with
  | none => raise .invalidArgument s
  | some m => generateInto m (s.setAddrCmdb (addressField s.word) (commandField s.word))

end Sys2Proof.Machine
end

