-- ==== Sys2Proof/Machine/HexCodec.lean ====
section
/-! DEFINITION. The commands of 40_hexcodec.md: NOP, HEXCLR, DECODEHEX, FIELDS, PACK. -/

namespace Sys2Proof.Machine

/-- NOP (40_hexcodec.md R110). -/
def execNop (s : State) : Result := normalEnd s

/-- HEXCLR (40_hexcodec.md R111). -/
def execHexclr (s : State) : Result := normalEnd s.clearHex

/-- DECODEHEX (40_hexcodec.md R112). -/
def execDecodehex (s : State) : Result :=
  match s.hexString.bind parseHex with
  | none => raise .formatError s
  | some w => normalEnd (s.setWord w)

/-- FIELDS (40_hexcodec.md R113). -/
def execFields (s : State) : Result :=
  normalEnd (s.setAddrCmdb (addressField s.word) (commandField s.word))

/-- PACK (40_hexcodec.md R114). -/
def execPack (s : State) : Result := normalEnd (s.setWord (commandWord s.addr s.cmdb))

end Sys2Proof.Machine
end

