-- ==== Sys2Proof/Machine/WavEncoder.lean ====
section
/-! DEFINITION. The WavEncoder (44_wav.md): the quantizer, the stream layout, TOWAV. -/

namespace Sys2Proof.Machine

/-- `round(x) = floor(x + 1/2)` (44_wav.md R201). -/
def roundHalfUp (x : Rat) : Int := (x + 1 / 2).floor

/-- `Q16(s)`: clamp, scale by 32768 below zero and by 32767 from zero up, round (44_wav.md R200). -/
def quantize (s : Sample) : Int :=
  let c := min 1 (max (-1) s)
  roundHalfUp (if c < 0 then c * 32768 else c * 32767)

/-- `le16(sext_16(Q16(s)))` (44_wav.md R204). -/
def pcmBytes (s : Sample) : List Byte := le16 (BitVec.ofInt 16 (quantize s))

/-- The PCM data of a mono buffer, in index order (44_wav.md R204). -/
def pcmMono (l : List Sample) : List Byte := l.flatMap pcmBytes

/-- The PCM data of a stereo buffer, interleaved, left before right (44_wav.md R204). -/
def pcmStereo (l r : List Sample) : List Byte := (l.zip r).flatMap fun p => pcmBytes p.1 ++ pcmBytes p.2

/-- `dataLength = n * ch * 2` (44_wav.md R203). -/
def dataLength (n ch : Nat) : Nat := n * ch * 2

/-- The 44-byte header (44_wav.md R203). -/
def wavHeader (n ch fs : Nat) : List Byte :=
  [0x52, 0x49, 0x46, 0x46] ++ le32 (BitVec.ofNat 32 (36 + dataLength n ch)) ++
  [0x57, 0x41, 0x56, 0x45] ++ [0x66, 0x6D, 0x74, 0x20] ++ le32 16 ++ le16 1 ++
  le16 (BitVec.ofNat 16 ch) ++ le32 (BitVec.ofNat 32 fs) ++ le32 (BitVec.ofNat 32 (fs * 2 * ch)) ++
  le16 (BitVec.ofNat 16 (2 * ch)) ++ le16 16 ++
  [0x64, 0x61, 0x74, 0x61] ++ le32 (BitVec.ofNat 32 (dataLength n ch))

/-- The PCM data of the buffer the state holds (44_wav.md R204, R206). -/
def State.pcmData (s : State) : List Byte :=
  if s.smpch = 2 then pcmStereo s.validLeft s.validRight else pcmMono s.validLeft

/-- TOWAV (44_wav.md R206): SMPCH outside 1 and 2 is check V10, SAMPLE_HZ = 0 is check V1; the rate is SAMPLE_HZ as it stands. -/
def execTowav (s : State) : Result :=
  if (s.smpch ≠ 1 ∧ s.smpch ≠ 2) ∨ s.cfg.sampleHz = 0 then raise .invalidArgument s
  else if s.params.wavCap.val < 44 + dataLength s.smplen.toNat s.smpch.toNat then refuse .wavCapacity
  else if 2 ^ 32 ≤ s.cfg.sampleHz.toNat * 2 * s.smpch.toNat then refuse .byteRateOverflow
  else normalEnd (s.setWav (wavHeader s.smplen.toNat s.smpch.toNat s.cfg.sampleHz.toNat ++ s.pcmData))

end Sys2Proof.Machine
end

