-- ==== Sys2Proof/Machine/Dispatch.lean ====
section
/-! DEFINITION. exec: one arm per command (30_encoding.md R84). -/

namespace Sys2Proof.Machine

def exec (i : Instr) (s : State) : Host.Outcome State Fault Refusal :=
  match i with
  | .nop => Sys2Proof.Machine.execNop s
  | .hexclr => Sys2Proof.Machine.execHexclr s
  | .decodehex => Sys2Proof.Machine.execDecodehex s
  | .fields => Sys2Proof.Machine.execFields s
  | .pack => Sys2Proof.Machine.execPack s
  | .encframe => Sys2Proof.Machine.execEncframe s
  | .encrep => Sys2Proof.Machine.execEncrep s
  | .render idx => Sys2Proof.Machine.execRender idx s
  | .assemble => Sys2Proof.Machine.execAssemble s
  | .generate => Sys2Proof.Machine.execGenerate s
  | .genword => Sys2Proof.Machine.execGenword s
  | .towav => Sys2Proof.Machine.execTowav s

end Sys2Proof.Machine
end

