-- ==== Sys2Proof/Machine/Bus.lean ====
section
/-! DEFINITION. The two bus transactions and the reset input (20_memory.md R50 to R56, R64; 70_reset_and_hazards.md R250):
what one step does with the next event of the host's queue. -/

namespace Sys2Proof.Machine

/-! ## Reads (20_memory.md R51) -/

/-- A register as a bus read returns it, zero-extended; HEXPUSH reads 0 (10_state.md R12, R19). -/
def slotValue (r : Slot) (s : State) : Word :=
  match r with
  | .op => s.op
  | .status => s.status.setWidth 32
  | .hexpush => 0
  | .hexlen => s.hexlen.setWidth 32
  | .word => s.word
  | .addr => s.addr.setWidth 32
  | .cmdb => s.cmdb.setWidth 32
  | .carrierHz => s.cfg.carrierHz
  | .sampleHz => s.cfg.sampleHz
  | .mode => s.cfg.mode.setWidth 32
  | .duty => s.cfg.duty.setWidth 32
  | .comp => s.cfg.comp.setWidth 32
  | .rep => s.cfg.rep
  | .gapUs => s.cfg.gapUs.setWidth 32
  | .amp => s.cfg.amp.setWidth 32
  | .ampIdle => s.cfg.ampIdle.setWidth 32
  | .seglen => s.seglen.setWidth 32
  | .smplen => s.smplen.setWidth 32
  | .smpch => s.smpch.setWidth 32
  | .wavlen => s.wavlen.setWidth 32
  | .hexbuf i => (s.hexbuf.get i).setWidth 32

/-- Bit 31 of a segment word (30_encoding.md R87). -/
def kindBit : SegKind → BitVec 1
  | .pulse => 1
  | .space => 0

/-- The segment word: kind in bit 31, ticks in bits 30:0 (30_encoding.md R87). -/
def segmentWord (g : Segment) : Word := kindBit g.kind ++ BitVec.ofNat 31 g.ticks

/-- A sample as a bus read returns it: `sext_32(Q16(s))` (30_encoding.md R88). -/
def sampleWord (x : Sample) : Word := BitVec.ofInt 32 (quantize x)

/-- What a read of an address returns when the spec gives it a value; `none` where it is unspecified (20_memory.md R51). -/
def readValue (a : Word) (s : State) : Option Word :=
  match spaceOf a with
  | some .reg => (slotOf (indexOf a)).map fun r => slotValue r s
  | some .seg => s.validSegs[indexOf a]?.map segmentWord
  | some .smpl => if s.smpch = 0 then none else s.validLeft[indexOf a]?.map sampleWord
  | some .smpr => if s.smpch = 2 then s.validRight[indexOf a]?.map sampleWord else none
  | some .wav => s.validWav[indexOf a]?.map fun b => b.setWidth 32
  | none => none

/-- The answer to a read while BUSY = 0. An unspecified value is the free value at the draw counter
(93_implementation_defined.md U1, U2). Nothing else of the state changes. -/
def answerRead (a : Word) (s : State) : State :=
  match readValue a s with
  | some v => { s with reply := some v }
  | none => { s with reply := some (Config.freeWord s.draws), draws := s.draws + 1 }

/-- `read(a)`: while BUSY = 1 only STATUS may be read (20_memory.md R64). -/
def busRead (a : Word) (s : State) : Result :=
  if s.busy then
    if targetSlot a = some .status then .next s.pollBusy else refuse .transactionWhileBusy
  else .next (answerRead a s)

/-! ## Writes (20_memory.md R52) -/

/-- The write of `d` to OP (20_memory.md R56): store it, decode it, run the command or raise IllegalCommand. -/
def runCommand (d : Word) (s : State) : Result :=
  onNext State.openBusyWindow
    (match decode d with
      | .command i => exec i (s.setOp d)
      | .illegal _ => raise .illegalCommand (s.setOp d))

/-- A write to a register other than OP: HEXPUSH appends, a writable register stores the low bits of the datum, a
read-only register ignores the write (20_memory.md R52, 10_state.md R18, R19). -/
def writeSlot (r : Slot) (d : Word) (s : State) : State :=
  match r with
  | .op => s
  | .status => s
  | .hexpush => s.pushHex (d.setWidth 8)
  | .hexlen => s
  | .word => s.setWord d
  | .addr => { s with addr := d.setWidth 8 }
  | .cmdb => { s with cmdb := d.setWidth 8 }
  | .carrierHz => { s with cfg := { s.cfg with carrierHz := d } }
  | .sampleHz => { s with cfg := { s.cfg with sampleHz := d } }
  | .mode => { s with cfg := { s.cfg with mode := d.setWidth 2 } }
  | .duty => { s with cfg := { s.cfg with duty := d.setWidth 16 } }
  | .comp => { s with cfg := { s.cfg with comp := d.setWidth 16 } }
  | .rep => { s with cfg := { s.cfg with rep := d } }
  | .gapUs => { s with cfg := { s.cfg with gapUs := d.setWidth 30 } }
  | .amp => { s with cfg := { s.cfg with amp := d.setWidth 16 } }
  | .ampIdle => { s with cfg := { s.cfg with ampIdle := d.setWidth 16 } }
  | .seglen => s
  | .smplen => s
  | .smpch => s
  | .wavlen => s
  | .hexbuf _ => s

/-- `write(a, d)`: refused while BUSY = 1 (20_memory.md R64); OP runs a command; a write to the memories, a reserved slot
or a reserved space does nothing (R52, R59). -/
def busWrite (a d : Word) (s : State) : Result :=
  if s.busy then refuse .transactionWhileBusy
  else if targetSlot a = some .op then runCommand d s
  else
    match targetSlot a with
    | some r => .next (writeSlot r d s)
    | none => .next s

/-! ## One event -/

/-- What an event does. A reset is accepted at any time (70_reset_and_hazards.md R250). -/
def transact (e : BusEvent) (s : State) : Result :=
  match e with
  | .read a => busRead a s
  | .write a d => busWrite a d s
  | .reset => .next s.hardReset

/-- Takes the next event off the host's queue; no datum has been returned for it yet. -/
def State.takeEvent (rest : List BusEvent) (s : State) : State := { s with pending := rest, reply := none }

/-- One step: the next event of the host, or nothing when the host does nothing (70_reset_and_hazards.md R250, log entry 2). -/
def stepEvent (s : State) : Result :=
  match s.pending with
  | [] => .next s
  | e :: rest => transact e (s.takeEvent rest)

/-- The state with the command word `d` as the host's next transaction, a write to OP, which no open busy window holds up. -/
def State.withCommand (d : Word) (s : State) : State :=
  { s with
    pending := .write Slot.op.address d :: s.pending
    pollsLeft := 0
    status := setBusyBit false s.status }

end Sys2Proof.Machine
end

