-- ==== Sys2Proof/Safety.lean ====
section
/-! DEFINITION. What holds of every state a run can reach, and the tables of the spec that statements are written with:
the legality checks, the capacity conditions, and what each command reads and writes. None of it is used by the machine. -/

namespace Sys2Proof.Machine

/-! ## The invariant -/

/-- SEG holds SEGLEN segments, each of 1 .. 2^31 - 1 ticks, at most SEG_CAP of them (10_state.md R30). -/
abbrev SegMemory.wf (s : State) : Prop :=
  s.seglen.toNat = s.seg.length ∧ s.seg.length ≤ s.params.segCap.val ∧
    ∀ g ∈ s.seg, 1 ≤ g.ticks ∧ g.ticks < 2 ^ 31

/-- SMPL and SMPR hold SMPLEN samples in [-1, 1], as many channels as SMPCH says, at most SMP_CAP each (10_state.md R17, R31, R32). -/
abbrev SampleMemory.wf (s : State) : Prop :=
  s.smpch.toNat ≤ 2 ∧ s.smplen.toNat = s.smpl.length ∧ s.smpl.length ≤ s.params.smpCap.val ∧
    s.smpr.length = (if s.smpch = 2 then s.smpl.length else 0) ∧ (s.smpch = 0 → s.smpl = []) ∧
    (∀ x ∈ s.smpl, -1 ≤ x ∧ x ≤ 1) ∧ ∀ x ∈ s.smpr, -1 ≤ x ∧ x ≤ 1

/-- WAV holds WAVLEN bytes, at most WAV_CAP (10_state.md R33). -/
abbrev WavMemory.wf (s : State) : Prop :=
  s.wavlen.toNat = s.wav.length ∧ s.wav.length ≤ s.params.wavCap.val

/-- The one form of the four memories: entry `k` of a list is entry `k` of the memory, and the length registers say how
many there are, so equal memories are equal data. -/
abbrev Memory.wf (s : State) : Prop := SegMemory.wf s ∧ SampleMemory.wf s ∧ WavMemory.wf s

/-- HEXBUF holds 0 at and past min(HEXLEN, 16) (10_state.md R13). -/
abbrev HexBuffer.wf (s : State) : Prop := ∀ i : Fin 16, s.hexlen.toNat ≤ i.val → s.hexbuf.get i = 0

/-- STATUS: bit 3 reads 0, ERR says that ERRCODE is not 0, an error only after a command (10_state.md R15); a busy
window only after a command, which is the model's choice (log entry 6). -/
abbrev StatusRegister.wf (s : State) : Prop :=
  s.status.getLsbD 3 = false ∧ (statusErr s.status = true ↔ statusErrCode s.status ≠ 0) ∧
    (statusErr s.status = true → statusDone s.status = true) ∧ (s.busy = true → statusDone s.status = true)

/-- BUSY is 1 exactly while polls are left, at most BUSY_POLLS of them: the model's way to hold the window of 20_memory.md R64
(log entry 6). -/
abbrev BusyWindow.wf (s : State) : Prop :=
  (s.busy = true ↔ 0 < s.pollsLeft) ∧ s.pollsLeft ≤ s.params.busyPolls

/-- The invariant of the block. -/
abbrev State.Inv (s : State) : Prop :=
  Memory.wf s ∧ HexBuffer.wf s ∧ StatusRegister.wf s ∧ BusyWindow.wf s

/-- SEG is one frame with its gap of a whole number of microseconds, some number of times over (none when empty), and its
kinds alternate, Pulse first (41_timing_model.md R131 to R133). -/
def State.segShape (s : State) : Prop :=
  s.seg.length % 68 = 0 ∧
    (∃ (a c : Byte) (gap : Nat), 0 < gap ∧ gap < 2 ^ 30 ∧ ∀ r, r < s.seg.length / 68 →
      (s.seg.drop (68 * r)).take 68 = frame a c ++ [⟨.space, 2 * gap⟩]) ∧
    ∀ j (h : j < s.seg.length), (s.seg[j].kind = .pulse ↔ j % 2 = 0)

/-- A little-endian field of `width` bytes at an offset of a byte sequence; bytes past the end count 0. -/
def leField (out : List Byte) (off width : Nat) : Nat :=
  match width with
  | 0 => 0
  | w + 1 => ((out[off]?).getD 0).toNat + 256 * leField out (off + 1) w

/-- A non-empty WAV begins "RIFF", its RIFF size field is its length less 8 and its data length field its length less 44
(44_wav.md R203). -/
abbrev State.wavShape (s : State) : Prop :=
  s.wav = [] ∨
    (44 ≤ s.wav.length ∧ s.wav.take 4 = [0x52, 0x49, 0x46, 0x46] ∧
      leField s.wav 4 4 + 8 = s.wav.length ∧ leField s.wav 40 4 + 44 = s.wav.length)

/-! ## Legality and capacity, as the spec's tables write them -/

/-- Checks V1 to V7 pass (60_exceptions.md R222). -/
abbrev RenderLegal (cfg : GenConfig) : Prop :=
  cfg.sampleHz ≠ 0 ∧ cfg.carrierHz ≠ 0 ∧ cfg.mode ≠ 3 ∧ cfg.duty.toNat ≤ 1000 ∧
    (cfg.amp ≠ 0 ∧ cfg.amp.toNat ≤ 1000) ∧ cfg.ampIdle.toNat ≤ 1000 ∧ cfg.comp ≠ 0

/-- A check of the table of 60_exceptions.md R222 fails, the column "made by" read for one command. -/
def FailsCheck (i : Instr) (s : State) : Prop :=
  match i with
  | .nop => False
  | .hexclr => False
  | .decodehex => False
  | .fields => False
  | .pack => False
  | .encframe => s.cfg.gapUs = 0
  | .encrep => s.cfg.rep = 0 ∨ s.cfg.gapUs = 0
  | .render idx => ¬RenderLegal s.cfg ∨ s.seglen.toNat ≤ idx
  | .assemble => ¬RenderLegal s.cfg
  | .generate => ¬RenderLegal s.cfg ∨ s.cfg.rep = 0 ∨ s.cfg.gapUs = 0
  | .genword => ¬RenderLegal s.cfg ∨ s.cfg.rep = 0 ∨ s.cfg.gapUs = 0
  | .towav => s.cfg.sampleHz = 0 ∨ (s.smpch ≠ 1 ∧ s.smpch ≠ 2)

/-- `N(ticks) = floor(ticks * comp * fs / 2_000_000_000)` (42_carrier_synth.md R151). -/
def countOf (cfg : GenConfig) (ticks : Nat) : Nat :=
  ticks * cfg.comp.toNat * cfg.sampleHz.toNat / 2000000000

/-- The samples of one gapped NEC frame (43_assembler.md R182). -/
def frameSamples (cfg : GenConfig) : Nat :=
  countOf cfg 18000 + countOf cfg 9000 + 49 * countOf cfg 1125 + 16 * countOf cfg 3375 +
    countOf cfg (2 * cfg.gapUs.toNat)

/-- The first sample index of segment `j`, `S_j = sum_{m<j} N_m` (43_assembler.md R180). -/
def startOf (cfg : GenConfig) (segs : List Segment) (j : Nat) : Nat :=
  ((segs.take j).map fun g => countOf cfg g.ticks).sum

/-- A capacity condition of 20_memory.md R60 holds, read for one command. -/
def ExceedsCapacity (i : Instr) (s : State) : Prop :=
  match i with
  | .nop => False
  | .hexclr => False
  | .decodehex => False
  | .fields => False
  | .pack => False
  | .encframe => s.params.segCap.val < 68
  | .encrep => s.params.segCap.val < 68 * s.cfg.rep.toNat
  | .render idx => ∃ g, s.seg[idx]? = some g ∧ s.params.smpCap.val < countOf s.cfg g.ticks
  | .assemble => s.params.smpCap.val < startOf s.cfg s.seg s.seg.length
  | .generate =>
    s.params.segCap.val < 68 * s.cfg.rep.toNat ∨ s.params.smpCap.val < s.cfg.rep.toNat * frameSamples s.cfg
  | .genword =>
    s.params.segCap.val < 68 * s.cfg.rep.toNat ∨ s.params.smpCap.val < s.cfg.rep.toNat * frameSamples s.cfg
  | .towav =>
    s.params.wavCap.val < 44 + s.smplen.toNat * s.smpch.toNat * 2 ∨ 2 ^ 32 ≤ s.cfg.sampleHz.toNat * 2 * s.smpch.toNat

/-! ## Carrier and channels, written out -/

/-- The phase numerator of sample `i` (42_carrier_synth.md R153). -/
abbrev phaseAt (cfg : GenConfig) (i : Nat) : Nat := (i * cfg.carrierHz.toNat) % cfg.sampleHz.toNat

/-- `on(i)` as a proposition (42_carrier_synth.md R153). -/
abbrev OnAt (cfg : GenConfig) (i : Nat) : Prop := phaseAt cfg i * 1000 < cfg.duty.toNat * cfg.sampleHz.toNat

/-- `hi(i)` as a proposition (42_carrier_synth.md R153). -/
abbrev HighAt (cfg : GenConfig) (i : Nat) : Prop := phaseAt cfg i * 2 < cfg.sampleHz.toNat

/-- The left or only channel's value at sample `i` of a segment, by MODE (42_carrier_synth.md R154 to R157). -/
def LeftAt (cfg : GenConfig) (kind : SegKind) (i : Nat) (x : Rat) : Prop :=
  (cfg.mode = 0 → kind = .pulse →
      (OnAt cfg i → x = (cfg.amp.toNat : Rat) / 1000) ∧ (¬OnAt cfg i → x = -((cfg.amp.toNat : Rat) / 1000))) ∧
    (cfg.mode = 0 → kind = .space →
      (HighAt cfg i → x = (cfg.ampIdle.toNat : Rat) / 1000) ∧
        (¬HighAt cfg i → x = -((cfg.ampIdle.toNat : Rat) / 1000))) ∧
    (cfg.mode = 1 → kind = .pulse →
      (OnAt cfg i → x = (cfg.amp.toNat : Rat) / 1000) ∧ (¬OnAt cfg i → x = 0)) ∧
    (cfg.mode = 2 → kind = .pulse →
      x = (cfg.amp.toNat : Rat) / 1000 * (1 + sine ((phaseAt cfg i : Rat) / (cfg.sampleHz.toNat : Rat))) / 2) ∧
    (cfg.mode ≠ 0 → kind = .space → x = 0)

/-- The right channel's value at sample `i` of a segment in MODE 0 (42_carrier_synth.md R154, R155). -/
def RightAt (cfg : GenConfig) (kind : SegKind) (i : Nat) (x : Rat) : Prop :=
  (kind = .pulse →
      (OnAt cfg i → x = -((cfg.amp.toNat : Rat) / 1000)) ∧ (¬OnAt cfg i → x = (cfg.amp.toNat : Rat) / 1000)) ∧
    (kind = .space →
      (HighAt cfg i → x = (cfg.ampIdle.toNat : Rat) / 1000) ∧
        (¬HighAt cfg i → x = -((cfg.ampIdle.toNat : Rat) / 1000)))

/-- The channels of a rendered list of segments, sample by sample: sample `i` of segment `j` stands at `S_j + i`, in the
left channel always and in the right channel in MODE 0 alone (43_assembler.md R180). -/
def RendersTo (cfg : GenConfig) (segs : List Segment) (l r : List Sample) : Prop :=
  l.length = startOf cfg segs segs.length ∧ r.length = (if cfg.mode = 0 then l.length else 0) ∧
    ∀ j g i, segs[j]? = some g → i < countOf cfg g.ticks →
      (∃ x, l[startOf cfg segs j + i]? = some x ∧ LeftAt cfg g.kind i x) ∧
        (cfg.mode = 0 → ∃ x, r[startOf cfg segs j + i]? = some x ∧ RightAt cfg g.kind i x)

/-! ## Hex strings -/

/-- An ASCII hex digit (40_hexcodec.md R112). -/
abbrev IsHexDigit (c : Byte) : Prop :=
  (0x30 ≤ c.toNat ∧ c.toNat ≤ 0x39) ∨ (0x41 ≤ c.toNat ∧ c.toNat ≤ 0x46) ∨ (0x61 ≤ c.toNat ∧ c.toNat ≤ 0x66)

/-- The value of a hex digit (40_hexcodec.md R112). -/
def digitValue (c : Byte) : Nat :=
  if c.toNat ≤ 0x39 then c.toNat - 0x30 else if c.toNat ≤ 0x46 then c.toNat - 0x37 else c.toNat - 0x57

/-- A string begins "0x" or "0X" (40_hexcodec.md R112). -/
abbrev HasPrefix (cs : List Byte) : Prop := cs[0]? = some 0x30 ∧ (cs[1]? = some 0x78 ∨ cs[1]? = some 0x58)

/-- `body` is what remains of the string `HEXBUF[0 .. HEXLEN-1]` after one optional prefix is removed, and it is 8 hex digits:
the strings DECODEHEX accepts (40_hexcodec.md R112). -/
def ValidHex (s : State) (body : List Byte) : Prop :=
  body.length = 8 ∧ (∀ c ∈ body, IsHexDigit c) ∧
    ((s.hexlen.toNat = 8 ∧ body = s.hexbuf.toList.take 8 ∧ ¬HasPrefix body) ∨
      (s.hexlen.toNat = 10 ∧ HasPrefix (s.hexbuf.toList.take 10) ∧ body = (s.hexbuf.toList.take 10).drop 2))

/-! ## What each command reads and writes (10_state.md R34) -/

/-- The registers a command writes: the column "writes" of R34. -/
def writesSlot (i : Instr) (r : Slot) : Bool :=
  match i, r with
  | _, .status => true
  | .hexclr, .hexlen => true
  | .hexclr, .hexbuf _ => true
  | .decodehex, .word => true
  | .fields, .addr => true
  | .fields, .cmdb => true
  | .pack, .word => true
  | .encframe, .seglen => true
  | .encrep, .seglen => true
  | .render _, .smplen => true
  | .render _, .smpch => true
  | .assemble, .smplen => true
  | .assemble, .smpch => true
  | .generate, .seglen => true
  | .generate, .smplen => true
  | .generate, .smpch => true
  | .genword, .addr => true
  | .genword, .cmdb => true
  | .genword, .seglen => true
  | .genword, .smplen => true
  | .genword, .smpch => true
  | .towav, .wavlen => true
  | _, _ => false

/-- The memories a command writes: the column "writes" of R34. -/
def writesSpace (i : Instr) (sp : Space) : Bool :=
  match i, sp with
  | .encframe, .seg => true
  | .encrep, .seg => true
  | .render _, .smpl => true
  | .render _, .smpr => true
  | .assemble, .smpl => true
  | .assemble, .smpr => true
  | .generate, .seg => true
  | .generate, .smpl => true
  | .generate, .smpr => true
  | .genword, .seg => true
  | .genword, .smpl => true
  | .genword, .smpr => true
  | .towav, .wav => true
  | _, _ => false

/-- A command may change what a bus address reads. -/
def writesAddress (i : Instr) (a : Word) : Bool :=
  match spaceOf a with
  | some .reg => ((slotOf (indexOf a)).map (writesSlot i)).getD false
  | some sp => writesSpace i sp
  | none => false

/-- Two states agree on what the rendering of SEG reads: the row RENDER of R34. -/
abbrev SameRenderSources (s t : State) : Prop :=
  s.seg = t.seg ∧ s.seglen = t.seglen ∧ s.cfg.carrierHz = t.cfg.carrierHz ∧ s.cfg.sampleHz = t.cfg.sampleHz ∧
    s.cfg.mode = t.cfg.mode ∧ s.cfg.duty = t.cfg.duty ∧ s.cfg.comp = t.cfg.comp ∧ s.cfg.amp = t.cfg.amp ∧
    s.cfg.ampIdle = t.cfg.ampIdle

/-- Two states agree on everything a command reads: the column "reads" of R34. -/
def SameSources (i : Instr) (s t : State) : Prop :=
  match i with
  | .nop => True
  | .hexclr => True
  | .decodehex => s.hexbuf = t.hexbuf ∧ s.hexlen = t.hexlen
  | .fields => s.word = t.word
  | .pack => s.addr = t.addr ∧ s.cmdb = t.cmdb
  | .encframe => s.addr = t.addr ∧ s.cmdb = t.cmdb ∧ s.cfg.gapUs = t.cfg.gapUs
  | .encrep => s.addr = t.addr ∧ s.cmdb = t.cmdb ∧ s.cfg.rep = t.cfg.rep ∧ s.cfg.gapUs = t.cfg.gapUs
  | .render _ => SameRenderSources s t
  | .assemble => SameRenderSources s t
  | .generate => s.addr = t.addr ∧ s.cmdb = t.cmdb ∧ s.cfg = t.cfg
  | .genword => s.word = t.word ∧ s.cfg = t.cfg
  | .towav =>
    s.smpl = t.smpl ∧ s.smpr = t.smpr ∧ s.smplen = t.smplen ∧ s.smpch = t.smpch ∧ s.cfg.sampleHz = t.cfg.sampleHz

end Sys2Proof.Machine
end

