-- ==== Sys2Proof/Certificates/Slice0/Obligations.lean ====
section
/-! DEFINITION. The statements about the block, for the provers. Each cites the rule of spec/ it follows. -/

open Sys2Proof Sys2Proof.Machine

/-! ## Encoding -/

/-- R80, R84, R86: every well-formed command, RENDER with every segment number, decodes from its own word. -/
def Obligations.DecodeOfEncodeIsTheCommand : Prop :=
  ∀ i : Instr, i.wellFormed = true → decode (encode i) = .command i

/-- R80, R86: a word that decodes is the encoding of the command it decodes to, and no other word is: each command has
one word. -/
def Obligations.EncodeOfDecodeIsTheWord : Prop :=
  ∀ (d : Word) (i : Instr), decode d = .command i → i.wellFormed = true ∧ encode i = d

/-- R85: a word is illegal exactly when its opcode is above 0x0B, or its opcode is not RENDER's and bits 31:8 are not
0; written to OP it executes nothing: STATUS becomes 0x36, OP holds the word, and nothing else changes. That with
BUSY_POLLS > 0 (R64) an illegal word opens a busy window too, of a free number of polls, is the model's choice (log
entry 6). -/
def Obligations.IllegalWordsRaiseIllegalCommand : Prop :=
  (∀ d : Word, (∃ r, decode d = .illegal r) ↔
      (0x0B < d.toNat % 256 ∨ (d.toNat % 256 ≠ 0x07 ∧ d.toNat / 256 ≠ 0))) ∧
    ∀ (s : State) (d : Word) (rest : List BusEvent), s.pending = .write 0x00000000 d :: rest → s.busy = false →
      (∃ r, decode d = .illegal r) →
      step s = .next ({ s with op := d, status := 0x36, pending := rest, reply := none } : State).openBusyWindow ∧
        (s.params.busyPolls = 0 →
          step s = .next { s with op := d, status := 0x36, pending := rest, reply := none })

/-- R84, match and mask form: a word decodes to a command exactly when it fits some row of the opcode table; it then
fits the row of the command it decodes to; and no word fits two rows. -/
def Obligations.TableRowsDecideDecoding : Prop :=
  (∀ d : Word, (∃ i, decode d = .command i) ↔ ∃ i : Instr, d &&& i.tableMask = i.tableMatch) ∧
    (∀ (d : Word) (i : Instr), decode d = .command i → d &&& i.tableMask = i.tableMatch) ∧
    ∀ (d : Word) (i j : Instr), d &&& i.tableMask = i.tableMatch → d &&& j.tableMask = j.tableMatch →
      i.opcode = j.opcode

/-- R84, T50: words written out from the table decode to the commands they stand for. -/
def Obligations.WordsOfTheTableDecode : Prop :=
  decode 0x00000000 = .command .nop ∧ decode 0x00000002 = .command .decodehex ∧
    decode 0x00000006 = .command .encrep ∧ decode 0x00000207 = .command (.render 2) ∧
    decode 0xFFFFFF07 = .command (.render 16777215) ∧ decode 0x0000000A = .command .genword ∧
    decode 0x0000000B = .command .towav ∧ decode 0x0000000C = .illegal .noSuchOpcode ∧
    decode 0x00000109 = .illegal .upperBitsNotZero ∧ decode 0x80000000 = .illegal .upperBitsNotZero

/-! ## The step and the bus -/

/-- R56: a write of a command word to OP stores the word and executes the command; with the reference value
BUSY_POLLS = 0 the step is the command and nothing else. That with BUSY_POLLS > 0 (R64) the effect is complete at once
and the busy window opens after it is the model's choice (log entry 6). -/
def Obligations.StepRunsTheCommandWritten : Prop :=
  ∀ (s : State) (d : Word) (rest : List BusEvent) (i : Instr),
    s.pending = .write 0x00000000 d :: rest → s.busy = false → decode d = .command i →
    step s = onNext State.openBusyWindow (exec i { s with op := d, pending := rest, reply := none }) ∧
      (s.params.busyPolls = 0 → step s = exec i { s with op := d, pending := rest, reply := none })

/-- R51, R12, R87, R88: a read answers, and changes nothing but the answer: every register zero-extended, HEXPUSH 0,
the segment word, the quantized sample sign-extended, the WAV byte. -/
def Obligations.ReadReturnsTheEntry : Prop :=
  ∀ (s : State) (a : Word) (rest : List BusEvent), s.pending = .read a :: rest → s.busy = false →
    ∃ v n, step s = .next { s with pending := rest, reply := some v, draws := n } ∧
      (a = 0x00 → v = s.op) ∧ (a = 0x01 → v.toNat = s.status.toNat) ∧ (a = 0x02 → v = 0) ∧
      (a = 0x03 → v.toNat = s.hexlen.toNat) ∧ (a = 0x04 → v = s.word) ∧ (a = 0x05 → v.toNat = s.addr.toNat) ∧
      (a = 0x06 → v.toNat = s.cmdb.toNat) ∧ (a = 0x08 → v = s.cfg.carrierHz) ∧ (a = 0x09 → v = s.cfg.sampleHz) ∧
      (a = 0x0A → v.toNat = s.cfg.mode.toNat) ∧ (a = 0x0B → v.toNat = s.cfg.duty.toNat) ∧
      (a = 0x0C → v.toNat = s.cfg.comp.toNat) ∧ (a = 0x0D → v = s.cfg.rep) ∧
      (a = 0x0E → v.toNat = s.cfg.gapUs.toNat) ∧ (a = 0x0F → v.toNat = s.cfg.amp.toNat) ∧
      (a = 0x10 → v.toNat = s.cfg.ampIdle.toNat) ∧ (a = 0x18 → v.toNat = s.seglen.toNat) ∧
      (a = 0x19 → v.toNat = s.smplen.toNat) ∧ (a = 0x1A → v.toNat = s.smpch.toNat) ∧
      (a = 0x1B → v.toNat = s.wavlen.toNat) ∧
      (∀ i : Fin 16, a.toNat = 0x20 + i.val → v.toNat = (s.hexbuf.get i).toNat) ∧
      (∀ j g, j < 2 ^ 28 → a.toNat = 0x10000000 + j → j < s.seglen.toNat → s.seg[j]? = some g → g.ticks < 2 ^ 31 →
        v.toNat = (if g.kind = .pulse then 2 ^ 31 else 0) + g.ticks) ∧
      (∀ j x, j < 2 ^ 28 → a.toNat = 0x20000000 + j → j < s.smplen.toNat → 1 ≤ s.smpch.toNat → s.smpl[j]? = some x →
        v.toInt = quantize x) ∧
      (∀ j x, j < 2 ^ 28 → a.toNat = 0x30000000 + j → j < s.smplen.toNat → s.smpch = 2 → s.smpr[j]? = some x →
        v.toInt = quantize x) ∧
      ∀ j b, j < 2 ^ 28 → a.toNat = 0x40000000 + j → j < s.wavlen.toNat → s.wav[j]? = some b → v.toNat = b.toNat

/-- R51: no read has a side effect: a second read of the same valid location gives the same value, and the first
leaves every valid location reading as before. -/
def Obligations.ReadsAreRepeatable : Prop :=
  ∀ (s t : State) (a v : Word) (rest : List BusEvent), s.pending = .read a :: .read a :: rest → s.busy = false →
    readValue a s = some v → step s = .next t →
    t.reply = some v ∧ (∃ u, step t = .next u ∧ u.reply = some v) ∧ ∀ b, readValue b t = readValue b s

/-- R52, R18: a write to a writable register other than OP and HEXPUSH stores the low bits of the datum and changes
nothing else. -/
def Obligations.WriteStoresTheLowBits : Prop :=
  ∀ (s : State) (a d : Word) (rest : List BusEvent), s.pending = .write a d :: rest → s.busy = false →
    (a = 0x04 → step s = .next { s with pending := rest, reply := none, word := d }) ∧
    (a = 0x05 → step s = .next { s with pending := rest, reply := none, addr := BitVec.ofNat 8 d.toNat }) ∧
    (a = 0x06 → step s = .next { s with pending := rest, reply := none, cmdb := BitVec.ofNat 8 d.toNat }) ∧
    (a = 0x08 → step s = .next { s with pending := rest, reply := none, cfg := { s.cfg with carrierHz := d } }) ∧
    (a = 0x09 → step s = .next { s with pending := rest, reply := none, cfg := { s.cfg with sampleHz := d } }) ∧
    (a = 0x0A → step s =
      .next { s with pending := rest, reply := none, cfg := { s.cfg with mode := BitVec.ofNat 2 d.toNat } }) ∧
    (a = 0x0B → step s =
      .next { s with pending := rest, reply := none, cfg := { s.cfg with duty := BitVec.ofNat 16 d.toNat } }) ∧
    (a = 0x0C → step s =
      .next { s with pending := rest, reply := none, cfg := { s.cfg with comp := BitVec.ofNat 16 d.toNat } }) ∧
    (a = 0x0D → step s = .next { s with pending := rest, reply := none, cfg := { s.cfg with rep := d } }) ∧
    (a = 0x0E → step s =
      .next { s with pending := rest, reply := none, cfg := { s.cfg with gapUs := BitVec.ofNat 30 d.toNat } }) ∧
    (a = 0x0F → step s =
      .next { s with pending := rest, reply := none, cfg := { s.cfg with amp := BitVec.ofNat 16 d.toNat } }) ∧
    (a = 0x10 → step s =
      .next { s with pending := rest, reply := none, cfg := { s.cfg with ampIdle := BitVec.ofNat 16 d.toNat } })

/-- R19, R52, R59: a write to a read-only register, a reserved slot, a memory or a reserved space changes nothing. -/
def Obligations.WriteElsewhereChangesNothing : Prop :=
  ∀ (s : State) (a d : Word) (rest : List BusEvent), s.pending = .write a d :: rest → s.busy = false →
    (a.toNat = 0x01 ∨ a.toNat = 0x03 ∨ a.toNat = 0x07 ∨ 0x11 ≤ a.toNat) →
    step s = .next { s with pending := rest, reply := none }

/-- R55: a write to HEXPUSH appends the low byte if fewer than 16 characters are held, counts up to 255, and changes
nothing else. -/
def Obligations.HexpushAppendsAndCounts : Prop :=
  ∀ (s : State) (d : Word) (rest : List BusEvent), s.pending = .write 0x02 d :: rest → s.busy = false →
    ∃ buf len, step s = .next { s with pending := rest, reply := none, hexbuf := buf, hexlen := len } ∧
      len.toNat = min (s.hexlen.toNat + 1) 255 ∧
      ∀ i : Fin 16, buf.get i = if i.val = s.hexlen.toNat then BitVec.ofNat 8 d.toNat else s.hexbuf.get i

/-- R64, the window counted in STATUS reads (the model's choice, log entry 6): while BUSY = 1, a STATUS read returns
BUSY = 1 with bit 3 and bits 31:6 clear and one poll fewer is left, BUSY being cleared with the last; and every other
transaction is refused. -/
def Obligations.BusyWindowAllowsStatusReadsOnly : Prop :=
  ∀ (s : State) (rest : List BusEvent), s.Inv → s.busy = true →
    (s.pending = .read 0x01 :: rest →
      ∃ t v, step s = .next t ∧ t.reply = some v ∧ v.getLsbD 0 = true ∧ v.getLsbD 3 = false ∧ v.toNat < 64 ∧
        t.pollsLeft + 1 = s.pollsLeft ∧ (t.busy = true ↔ 1 < s.pollsLeft) ∧
        statusDone t.status = statusDone s.status ∧ statusErr t.status = statusErr s.status ∧
        statusErrCode t.status = statusErrCode s.status ∧
        t = { s with pending := rest, reply := t.reply, draws := t.draws, pollsLeft := t.pollsLeft, status := t.status }) ∧
    (∀ a, a ≠ 0x01 → s.pending = .read a :: rest → step s = .refused .transactionWhileBusy) ∧
    ∀ a d, s.pending = .write a d :: rest → step s = .refused .transactionWhileBusy

/-- R227, R237: outside a busy window the block takes every transaction; only a command over a capacity is refused. -/
def Obligations.OnlyCapacityIsRefused : Prop :=
  ∀ s : State, Memory.wf s → s.busy = false →
    (∀ (d : Word) (rest : List BusEvent) (i : Instr), s.pending = .write 0x00000000 d :: rest →
      decode d = .command i → ¬ExceedsCapacity i s ∨ FailsCheck i s) →
    ∃ t, step s = .next t

/-- R40: the reset value of every register and memory; the sequencer is idle. -/
def Obligations.ResetValues : Prop :=
  State.reset.op = 0 ∧ State.reset.status = 0 ∧ State.reset.busy = false ∧ State.reset.hexlen = 0 ∧
    (∀ i : Fin 16, State.reset.hexbuf.get i = 0) ∧ State.reset.word = 0 ∧ State.reset.addr = 0 ∧
    State.reset.cmdb = 0 ∧ State.reset.cfg.carrierHz = 38000 ∧ State.reset.cfg.sampleHz = 192000 ∧
    State.reset.cfg.mode = 0 ∧ State.reset.cfg.duty = 700 ∧ State.reset.cfg.comp = 1000 ∧
    State.reset.cfg.rep = 1 ∧ State.reset.cfg.gapUs = 40000 ∧ State.reset.cfg.amp = 800 ∧
    State.reset.cfg.ampIdle = 10 ∧ State.reset.seglen = 0 ∧ State.reset.smplen = 0 ∧ State.reset.smpch = 0 ∧
    State.reset.wavlen = 0 ∧ State.reset.seg = [] ∧ State.reset.smpl = [] ∧ State.reset.smpr = [] ∧
    State.reset.wav = []

/-- R250: a reset is taken at any time, in a busy window too, and leaves every piece of the block's state at its value
of R40. That the open parameters, the host's queue and the draw counter stay is the model's choice (log entry 11). -/
def Obligations.HardwareResetFromAnyState : Prop :=
  ∀ (s : State) (rest : List BusEvent), s.pending = .reset :: rest →
    step s = .next { State.reset with params := s.params, draws := s.draws, pending := rest }

/-! ## HexCommandCodec -/

/-- R110: NOP only reports a normal end. -/
def Obligations.NopOnlyReportsOk : Prop :=
  ∀ s : State, exec .nop s = .next { s with status := 0x02 }

/-- R111: HEXCLR sets HEXLEN and every HEXBUF entry to 0 and reports a normal end. -/
def Obligations.HexclrEmptiesTheBuffer : Prop :=
  ∀ s : State, ∃ buf, exec .hexclr s = .next { s with hexlen := 0, hexbuf := buf, status := 0x02 } ∧
    ∀ i : Fin 16, buf.get i = 0

/-- R112: DECODEHEX of an optional prefix and 8 hex digits writes WORD, the first digit in bits 31:28, the last in
bits 3:0, and nothing else but STATUS. -/
def Obligations.DecodehexReadsEightDigits : Prop :=
  ∀ (s : State) (body : List Byte), ValidHex s body →
    ∃ w : Word, exec .decodehex s = .next { s with word := w, status := 0x02 } ∧
      ∀ t c, body[t]? = some c → w.toNat / 16 ^ (7 - t) % 16 = digitValue c

/-- R112, R221: DECODEHEX of every other string ends with FormatError, and every register and memory but STATUS is
unchanged. -/
def Obligations.DecodehexRejectsOtherStrings : Prop :=
  ∀ s : State, (¬∃ body, ValidHex s body) → exec .decodehex s = .next { s with status := 0x16 }

/-- R113: FIELDS extracts the address and the command byte. -/
def Obligations.FieldsExtractsBothBytes : Prop :=
  ∀ s : State, exec .fields s = .next
    { s with
      addr := BitVec.ofNat 8 (s.word.toNat / 2 ^ 24 % 2 ^ 8)
      cmdb := BitVec.ofNat 8 (s.word.toNat / 2 ^ 8 % 2 ^ 8)
      status := 0x02 }

/-- R114, R89: PACK builds the CommandWord with the complements 255 - b. -/
def Obligations.PackBuildsTheCommandWord : Prop :=
  ∀ s : State, ∃ w : Word, exec .pack s = .next { s with word := w, status := 0x02 } ∧
    w.toNat = s.addr.toNat * 2 ^ 24 + (255 - s.addr.toNat) * 2 ^ 16 + s.cmdb.toNat * 2 ^ 8 + (255 - s.cmdb.toNat)

/-- R114, laws: FIELDS after PACK returns the same ADDR and CMDB; PACK after FIELDS returns the original WORD exactly
when its inverted fields were complements. -/
def Obligations.PackAndFieldsAreInverse : Prop :=
  (∀ s t u : State, exec .pack s = .next t → exec .fields t = .next u → u.addr = s.addr ∧ u.cmdb = s.cmdb) ∧
    ∀ s t u : State, exec .fields s = .next t → exec .pack t = .next u →
      (u.word = s.word ↔
        (invAddressField s.word = ~~~addressField s.word ∧ invCommandField s.word = ~~~commandField s.word))

/-! ## TimingModel -/

/-- R130, R131: the NEC frame: 67 segments, the leader, the payload bytes in order with each bit least significant
first, the stop pulse; pulses even, spaces odd. -/
def Obligations.FrameIsTheNecFrame : Prop :=
  ∀ a c : Byte, (frame a c).length = 67 ∧
    (frame a c)[0]? = some ⟨.pulse, 18000⟩ ∧ (frame a c)[1]? = some ⟨.space, 9000⟩ ∧
    (∀ k b v, k < 4 → b < 8 → [a.toNat, 255 - a.toNat, c.toNat, 255 - c.toNat][k]? = some v →
      (frame a c)[2 + 2 * (8 * k + b)]? = some ⟨.pulse, 1125⟩ ∧
        (frame a c)[3 + 2 * (8 * k + b)]? = some ⟨.space, if v / 2 ^ b % 2 = 1 then 3375 else 1125⟩) ∧
    (frame a c)[66]? = some ⟨.pulse, 1125⟩ ∧
    ∀ j g, (frame a c)[j]? = some g → (g.kind = .pulse ↔ j % 2 = 0)

/-- R131, the spec's own inference: every frame lasts 136125 ticks, whatever it carries. -/
def Obligations.EveryFrameLastsTheSame : Prop :=
  ∀ a c : Byte, ((frame a c).map fun g => g.ticks).sum = 136125

/-- R132: ENCFRAME writes the frame and the guard, 68 segments; a gap of 0 is InvalidArgument; a SEG_CAP below 68 is
refused. -/
def Obligations.EncframeWritesOneFrame : Prop :=
  ∀ s : State,
    (s.cfg.gapUs ≠ 0 → 68 ≤ s.params.segCap.val → exec .encframe s = .next
      { s with
        seg := frame s.addr s.cmdb ++ [⟨.space, 2 * s.cfg.gapUs.toNat⟩]
        seglen := 68
        status := 0x02 }) ∧
    (s.cfg.gapUs = 0 → exec .encframe s = .next { s with status := 0x26 }) ∧
    (s.cfg.gapUs ≠ 0 → s.params.segCap.val < 68 → exec .encframe s = .refused .segCapacity)

/-- R133: ENCREP writes 68 * REPEAT segments: frame r at 68r .. 68r + 66, a gap at 68r + 67; REPEAT = 0 or GAP_US = 0
is InvalidArgument; over SEG_CAP it is refused. -/
def Obligations.EncrepWritesRepeatedFrames : Prop :=
  ∀ s : State,
    (s.cfg.rep ≠ 0 → s.cfg.gapUs ≠ 0 → 68 * s.cfg.rep.toNat ≤ s.params.segCap.val →
      ∃ segs len, exec .encrep s = .next { s with seg := segs, seglen := len, status := 0x02 } ∧
        segs.length = 68 * s.cfg.rep.toNat ∧ len.toNat = 68 * s.cfg.rep.toNat ∧
        ∀ r, r < s.cfg.rep.toNat →
          (∀ j, j < 67 → segs[68 * r + j]? = (frame s.addr s.cmdb)[j]?) ∧
            segs[68 * r + 67]? = some ⟨.space, 2 * s.cfg.gapUs.toNat⟩) ∧
    (s.cfg.rep = 0 ∨ s.cfg.gapUs = 0 → exec .encrep s = .next { s with status := 0x26 }) ∧
    (s.cfg.rep ≠ 0 → s.cfg.gapUs ≠ 0 → s.params.segCap.val < 68 * s.cfg.rep.toNat →
      exec .encrep s = .refused .segCapacity)

/-- R133, corner cases and counts (the spec's own inference): the list is one gapped frame repeated, the kinds alternate
through the whole list, Pulse first and Space last, and the list lasts REPEAT * (136125 + 2 * GAP_US) ticks. -/
def Obligations.EncrepAlternatesAndLasts : Prop :=
  ∀ s t : State, s.cfg.rep ≠ 0 → s.cfg.gapUs ≠ 0 → exec .encrep s = .next t →
    t.segShape ∧ (t.seg.map fun g => g.ticks).sum = s.cfg.rep.toNat * (136125 + 2 * s.cfg.gapUs.toNat)

/-- R132, corner cases: with REPEAT = 1, ENCREP and ENCFRAME give the same state; and ENCFRAME does not read REPEAT.
-/
def Obligations.EncframeIsEncrepOnce : Prop :=
  ∀ s : State, exec .encrep { s with cfg := { s.cfg with rep := 1 } } =
    onNext (fun t => { t with cfg := { t.cfg with rep := 1 } }) (exec .encframe s)

/-! ## CarrierSynthesizer -/

/-- R151, R152: each segment is floored by itself: the total is at most the unfloored total, and less by less than one
sample per segment. -/
def Obligations.FloorPerSegmentDrift : Prop :=
  ∀ (cfg : GenConfig) (segs : List Segment),
    totalSamples cfg segs ≤ countOf cfg ((segs.map fun g => g.ticks).sum) ∧
      (segs ≠ [] → countOf cfg ((segs.map fun g => g.ticks).sum) < totalSamples cfg segs + segs.length)

/-- R153: the phase numerator is below the sample rate, starts at 0, advances by the carrier rate modulo the sample
rate and repeats after SAMPLE_HZ samples; DUTY = 1000 is on at every sample and DUTY = 0 at none. -/
def Obligations.CarrierPhase : Prop :=
  ∀ cfg : GenConfig, cfg.sampleHz ≠ 0 →
    ∀ i : Nat, phaseNum cfg i < cfg.sampleHz.toNat ∧ phaseNum cfg 0 = 0 ∧
      phaseNum cfg (i + 1) = (phaseNum cfg i + cfg.carrierHz.toNat) % cfg.sampleHz.toNat ∧
      phaseNum cfg (i + cfg.sampleHz.toNat) = phaseNum cfg i ∧
      (cfg.duty = 1000 → carrierOn cfg i = true) ∧ (cfg.duty = 0 → carrierOn cfg i = false)

/-- R154: MODE 0, Pulse: the left channel is +A while on and -A otherwise, the right is its negative, and the drive L
- R is +2A or -2A. -/
def Obligations.StereoPulseIsBipolar : Prop :=
  ∀ (cfg : GenConfig) (i : Nat),
    leftSample .stereoDiff .pulse cfg i = (if OnAt cfg i then 1 else -1) * ((cfg.amp.toNat : Rat) / 1000) ∧
      rightSample .pulse cfg i = -leftSample .stereoDiff .pulse cfg i ∧
      leftSample .stereoDiff .pulse cfg i - rightSample .pulse cfg i =
        (if OnAt cfg i then 2 else -2) * ((cfg.amp.toNat : Rat) / 1000)

/-- R155: MODE 0, Space: the same 50 % square wave of amplitude a on both channels, high half first, whatever DUTY
holds. -/
def Obligations.StereoSpaceIsBalanced : Prop :=
  ∀ (cfg : GenConfig) (i : Nat),
    leftSample .stereoDiff .space cfg i = (if HighAt cfg i then 1 else -1) * ((cfg.ampIdle.toNat : Rat) / 1000) ∧
      rightSample .space cfg i = leftSample .stereoDiff .space cfg i

/-- R156: MODE 1: a Pulse alternates between 0 and +A, a Space is exactly 0. -/
def Obligations.MonoSquareAlternates : Prop :=
  ∀ (cfg : GenConfig) (i : Nat),
    leftSample .monoSquare .pulse cfg i = (if OnAt cfg i then (cfg.amp.toNat : Rat) / 1000 else 0) ∧
      leftSample .monoSquare .space cfg i = 0

/-- R157: MODE 2: a Pulse lies in [0, A] and depends on the phase and A alone, a Space is exactly 0. The sine is open:
that its value is cut to [-1, 1] is the model's way to give it its range (log entry 4). -/
def Obligations.MonoSineStaysBelowTheAmplitude : Prop :=
  ∀ (cfg : GenConfig) (i : Nat),
    0 ≤ leftSample .monoSine .pulse cfg i ∧ leftSample .monoSine .pulse cfg i ≤ (cfg.amp.toNat : Rat) / 1000 ∧
      leftSample .monoSine .space cfg i = 0 ∧
      ∀ (other : GenConfig) (j : Nat), other.amp = cfg.amp →
        (phaseAt other j : Rat) / (other.sampleHz.toNat : Rat) = (phaseAt cfg i : Rat) / (cfg.sampleHz.toNat : Rat) →
        leftSample .monoSine .pulse other j = leftSample .monoSine .pulse cfg i

/-- R158 (the spec's own inference): every sample any mode renders under a legal configuration lies in [-1, 1], for
every value of the open sine. -/
def Obligations.SamplesStayInRange : Prop :=
  ∀ (cfg : GenConfig) (m : Modulation) (kind : SegKind) (i : Nat) (x : Rat), RenderLegal cfg →
    x = leftSample m kind cfg i ∨ x = rightSample kind cfg i → -1 ≤ x ∧ x ≤ 1

/-- R160: RENDER idx renders one segment alone into the sample buffer and changes nothing else but STATUS. -/
def Obligations.RenderWritesOneSegment : Prop :=
  ∀ (s : State) (idx : Nat) (g : Segment), RenderLegal s.cfg → idx < s.seglen.toNat → s.seg[idx]? = some g →
    countOf s.cfg g.ticks ≤ s.params.smpCap.val →
    ∃ l r len, exec (.render idx) s = .next
        { s with smpl := l, smpr := r, smplen := len, smpch := if s.cfg.mode = 0 then 2 else 1, status := 0x02 } ∧
      len.toNat = countOf s.cfg g.ticks ∧ RendersTo s.cfg [g] l r

/-! ## SignalAssembler -/

/-- R180, R181, R182: ASSEMBLE renders every segment of SEG in order, with no gap and no overlap, and changes nothing
else but STATUS; an empty SEG gives an empty buffer. -/
def Obligations.AssembleConcatenatesSegments : Prop :=
  ∀ s : State, Memory.wf s → RenderLegal s.cfg → startOf s.cfg s.seg s.seg.length ≤ s.params.smpCap.val →
    ∃ l r len, exec .assemble s = .next
        { s with smpl := l, smpr := r, smplen := len, smpch := if s.cfg.mode = 0 then 2 else 1, status := 0x02 } ∧
      len.toNat = startOf s.cfg s.seg s.seg.length ∧ RendersTo s.cfg s.seg l r

/-- R183: GENERATE writes the list ENCREP builds and its rendering, and changes nothing else but STATUS. That the sample
total is REPEAT times the samples of one gapped frame is R182's formula, the spec's own inference. -/
def Obligations.GenerateWritesListAndBuffer : Prop :=
  ∀ s : State, RenderLegal s.cfg → s.cfg.rep ≠ 0 → s.cfg.gapUs ≠ 0 →
    68 * s.cfg.rep.toNat ≤ s.params.segCap.val → s.cfg.rep.toNat * frameSamples s.cfg ≤ s.params.smpCap.val →
    ∃ segs slen l r len, exec .generate s = .next
        { s with
          seg := segs, seglen := slen, smpl := l, smpr := r, smplen := len
          smpch := if s.cfg.mode = 0 then 2 else 1
          status := 0x02 } ∧
      segs = repeatedFrames s.addr s.cmdb ⟨.space, 2 * s.cfg.gapUs.toNat⟩ s.cfg.rep.toNat ∧
      slen.toNat = 68 * s.cfg.rep.toNat ∧ len.toNat = s.cfg.rep.toNat * frameSamples s.cfg ∧
      RendersTo s.cfg segs l r

/-- R183, equivalence (the spec's own inference): when no check fails, GENERATE leaves what ENCREP and then ASSEMBLE
leave, or is refused where one of them is. -/
def Obligations.GenerateIsEncrepThenAssemble : Prop :=
  ∀ s : State, ¬FailsCheck .generate s →
    (∀ t, exec .encrep s = .next t → exec .assemble t = exec .generate s) ∧
      ∀ r, exec .encrep s = .refused r → exec .generate s = .refused r

/-- R184: GENWORD writes ADDR and CMDB from WORD, then does what GENERATE does; the sample total is R182's formula, the
spec's own inference. -/
def Obligations.GenwordWritesFieldsListAndBuffer : Prop :=
  ∀ s : State, RenderLegal s.cfg → s.cfg.rep ≠ 0 → s.cfg.gapUs ≠ 0 →
    68 * s.cfg.rep.toNat ≤ s.params.segCap.val → s.cfg.rep.toNat * frameSamples s.cfg ≤ s.params.smpCap.val →
    ∃ a c segs slen l r len, exec .genword s = .next
        { s with
          addr := a, cmdb := c, seg := segs, seglen := slen, smpl := l, smpr := r, smplen := len
          smpch := if s.cfg.mode = 0 then 2 else 1
          status := 0x02 } ∧
      a.toNat = s.word.toNat / 2 ^ 24 ∧ c.toNat = s.word.toNat / 2 ^ 8 % 2 ^ 8 ∧
      segs = repeatedFrames a c ⟨.space, 2 * s.cfg.gapUs.toNat⟩ s.cfg.rep.toNat ∧
      slen.toNat = 68 * s.cfg.rep.toNat ∧ len.toNat = s.cfg.rep.toNat * frameSamples s.cfg ∧
      RendersTo s.cfg segs l r

/-- R184, corner cases: when no check fails, GENWORD leaves what FIELDS and then GENERATE leave; and the inverted
fields of WORD make no difference. -/
def Obligations.GenwordIsFieldsThenGenerate : Prop :=
  (∀ s t : State, ¬FailsCheck .genword s → exec .fields s = .next t → exec .genword s = exec .generate t) ∧
    ∀ (s : State) (w : Word), addressField w = addressField s.word → commandField w = commandField s.word →
      exec .genword { s with word := w } = onNext (State.setWord w) (exec .genword s)

/-! ## WavEncoder -/

/-- R200: Q16 fits 16 bits, is monotone, clamps first, and is the nearest integer of the scaled sample, a half going
up; it is not odd, though it happens to be at 0.8. -/
def Obligations.QuantizerRangeAndOrder : Prop :=
  (∀ x : Rat, -32768 ≤ quantize x ∧ quantize x ≤ 32767) ∧ (∀ x y : Rat, x ≤ y → quantize x ≤ quantize y) ∧
    (∀ x : Rat, 1 ≤ x → quantize x = 32767) ∧ (∀ x : Rat, x ≤ -1 → quantize x = -32768) ∧
    (∀ x : Rat, -1 ≤ x → x < 0 → (quantize x : Rat) ≤ x * 32768 + 1 / 2 ∧ x * 32768 - 1 / 2 < quantize x) ∧
    (∀ x : Rat, 0 ≤ x → x ≤ 1 → (quantize x : Rat) ≤ x * 32767 + 1 / 2 ∧ x * 32767 - 1 / 2 < quantize x) ∧
    quantize 0 = 0 ∧ quantize (4 / 5) = 26214 ∧ quantize (-4 / 5) = -26214 ∧ quantize (-1) ≠ -quantize 1

/-- R201: round is the greatest integer not above x + 1/2: the nearest integer, a half going toward plus infinity. -/
def Obligations.RoundHalfGoesUp : Prop :=
  (∀ x : Rat, (roundHalfUp x : Rat) ≤ x + 1 / 2 ∧ x - 1 / 2 < roundHalfUp x) ∧
    (∀ n : Int, roundHalfUp (n + 1 / 2) = n + 1) ∧ roundHalfUp (5 / 2) = 3 ∧ roundHalfUp (-5 / 2) = -2 ∧
    roundHalfUp (-262144 / 10) = -26214 ∧ roundHalfUp (262136 / 10) = 26214 ∧
    quantize ((500 : Rat) / 1000) = 16384

/-- R202: the fixed points the source states, and the further values, which are the spec's own inference. -/
def Obligations.QuantizerFixedPoints : Prop :=
  quantize 1 = 32767 ∧ quantize (-1) = -32768 ∧ quantize 0 = 0 ∧ quantize 2 = 32767 ∧ quantize (-7 / 2) = -32768 ∧
    quantize (9 / 10) = 29490 ∧ quantize (-9 / 10) = -29491 ∧ quantize (1 / 100) = 328 ∧
    quantize (-1 / 100) = -328 ∧ quantize (2 / 5) = 13107 ∧ quantize (1 / 65534) = 1 ∧ quantize (-1 / 65536) = 0

/-- R203, R204, R206: TOWAV writes the 44-byte header and the interleaved PCM data, the rate being SAMPLE_HZ as it
stands, and changes nothing else but STATUS. -/
def Obligations.TowavWritesTheStream : Prop :=
  ∀ s : State, Memory.wf s → (s.smpch = 1 ∨ s.smpch = 2) → s.cfg.sampleHz ≠ 0 →
    44 + s.smplen.toNat * s.smpch.toNat * 2 ≤ s.params.wavCap.val →
    s.cfg.sampleHz.toNat * 2 * s.smpch.toNat < 2 ^ 32 →
    ∃ out len, exec .towav s = .next { s with wav := out, wavlen := len, status := 0x02 } ∧
      len.toNat = 44 + s.smplen.toNat * s.smpch.toNat * 2 ∧ out.length = 44 + s.smplen.toNat * s.smpch.toNat * 2 ∧
      out.take 4 = [0x52, 0x49, 0x46, 0x46] ∧ leField out 4 4 = 36 + s.smplen.toNat * s.smpch.toNat * 2 ∧
      (out.drop 8).take 8 = [0x57, 0x41, 0x56, 0x45, 0x66, 0x6D, 0x74, 0x20] ∧ leField out 16 4 = 16 ∧
      leField out 20 2 = 1 ∧ leField out 22 2 = s.smpch.toNat ∧ leField out 24 4 = s.cfg.sampleHz.toNat ∧
      leField out 28 4 = s.cfg.sampleHz.toNat * 2 * s.smpch.toNat ∧ leField out 32 2 = 2 * s.smpch.toNat ∧
      leField out 34 2 = 16 ∧ (out.drop 36).take 4 = [0x64, 0x61, 0x74, 0x61] ∧
      leField out 40 4 = s.smplen.toNat * s.smpch.toNat * 2 ∧
      (∀ m x, m < s.smplen.toNat → s.smpl[m]? = some x →
        (leField out (44 + 2 * (m * s.smpch.toNat)) 2 : Int) = quantize x % 65536) ∧
      ∀ m x, m < s.smplen.toNat → s.smpch = 2 → s.smpr[m]? = some x →
        (leField out (44 + 2 * (m * s.smpch.toNat + 1)) 2 : Int) = quantize x % 65536

/-! ## Errors and capacity -/

/-- R222, R226: a command whose table of checks has a failed entry ends with InvalidArgument and changes STATUS alone;
a command none of whose checks fails does not end with InvalidArgument. -/
def Obligations.FailedChecksAreInvalidArgument : Prop :=
  ∀ (i : Instr) (s : State), Memory.wf s →
    (FailsCheck i s → exec i s = .next { s with status := 0x26 }) ∧
      (¬FailsCheck i s → ∀ t, exec i s = .next t → t.status ≠ 0x26)

/-- R226: an error end changes STATUS and nothing else. -/
def Obligations.ErrorEndChangesStatusAlone : Prop :=
  ∀ (i : Instr) (s t : State), exec i s = .next t → statusErr t.status = true → t = { s with status := t.status }

/-- R220, R225, R226, R221: after a command STATUS is 0x02, 0x16 or 0x26, and 0x16 (FormatError) after DECODEHEX
alone. -/
def Obligations.StatusAfterACommand : Prop :=
  ∀ (i : Instr) (s t : State), exec i s = .next t →
    t.status = 0x02 ∨ (t.status = 0x16 ∧ i = .decodehex) ∨ (t.status = 0x26 ∧ i ≠ .decodehex)

/-- R15: DONE is never cleared but by reset. -/
def Obligations.DoneClearsOnlyAtReset : Prop :=
  ∀ s t : State, step s = .next t → statusDone s.status = true → (∀ rest, s.pending ≠ .reset :: rest) →
    statusDone t.status = true

/-- R60, R224, R237: a command is refused exactly when its checks pass and its result would not fit. For GENERATE and
GENWORD the sample total is R182's formula, the spec's own inference. -/
def Obligations.RefusedExactlyOverCapacity : Prop :=
  ∀ (i : Instr) (s : State), Memory.wf s →
    ((∃ r, exec i s = .refused r) ↔ (¬FailsCheck i s ∧ ExceedsCapacity i s))

/-! ## The whole machine -/

/-- R40, R11: the state after reset meets the invariants; the clauses on the busy window are the model's choice (log
entry 6). -/
def Obligations.ResetMeetsTheInvariant : Prop :=
  State.reset.Inv ∧ State.reset.segShape ∧ State.reset.wavShape

/-- R13, R15, R17, R30 to R33: every step keeps the invariant: the length registers describe the memories, every duration
and sample is in range, HEXBUF is 0 past its characters, STATUS is consistent. Its clauses on the busy window of R64 (BUSY
is 1 exactly while polls are left, and only with DONE = 1) are the model's choice (log entry 6). -/
def Obligations.EveryStepKeepsTheInvariant : Prop :=
  ∀ s t : State, s.Inv → step s = .next t → t.Inv

/-- R131 to R133, R35: SEG always holds one gapped NEC frame, leader, payload, stop pulse and gap, some number of times
over, its kinds alternating. -/
def Obligations.EveryStepKeepsWholeFrames : Prop :=
  ∀ s t : State, s.segShape → step s = .next t → t.segShape

/-- R203: the WAV header invariant: a WAV stream always carries its own length. -/
def Obligations.EveryStepKeepsTheWavHeader : Prop :=
  ∀ s t : State, s.Inv → s.wavShape → step s = .next t → t.wavShape

/-- R34: a command changes its listed destinations only: every other address, register, segment, sample or byte, reads
as before, and so do the exact samples, the configuration and OP. -/
def Obligations.CommandsWriteTheirDestinations : Prop :=
  ∀ (i : Instr) (s t : State), exec i s = .next t →
    (∀ a, writesAddress i a = false → readValue a t = readValue a s) ∧ t.cfg = s.cfg ∧ t.op = s.op ∧
      (writesSpace i .smpl = false → t.smpl = s.smpl ∧ t.smpr = s.smpr) ∧ t.params = s.params ∧
      t.pending = s.pending ∧ t.draws = s.draws

/-- R3, R34: what a command leaves in its destinations depends on its listed sources and the parameters alone: two
states that agree on them get the same STATUS and, after a normal end, the same destinations. -/
def Obligations.DestinationsDependOnSourcesAlone : Prop :=
  ∀ (i : Instr) (s t s' : State), s.params = t.params → SameSources i s t → exec i s = .next s' →
    ∃ t', exec i t = .next t' ∧ t'.status = s'.status ∧
      (s'.status = 0x02 →
        (∀ a, writesAddress i a = true → readValue a t' = readValue a s') ∧
          (writesSpace i .smpl = true → t'.smpl = s'.smpl ∧ t'.smpr = s'.smpr))

/-- R11, R66: no step changes the open parameters, and no command, read or reset is run on another configuration than
the one the state holds: the configuration changes only by a register write or a reset. -/
def Obligations.ConfigurationChangesOnlyByTheHost : Prop :=
  ∀ s t : State, step s = .next t → t.params = s.params ∧
    (t.cfg = s.cfg ∨ (∃ a d rest, s.pending = .write a d :: rest ∧ 0x08 ≤ a.toNat ∧ a.toNat ≤ 0x10) ∨
      ∃ rest, s.pending = .reset :: rest)
end

