-- ==== Sys2Proof/Laws/State.lean ====
section
/-! SUPPORT. One lemma per field per named update of State: what the update leaves in the field. -/

namespace Sys2Proof.Machine

variable (s : State)

/-! ## State.setOp -/

@[simp] theorem State.setOp_op (d : Word) : (s.setOp d).op = d := rfl
@[simp] theorem State.setOp_status (d : Word) : (s.setOp d).status = s.status := rfl
@[simp] theorem State.setOp_hexlen (d : Word) : (s.setOp d).hexlen = s.hexlen := rfl
@[simp] theorem State.setOp_hexbuf (d : Word) : (s.setOp d).hexbuf = s.hexbuf := rfl
@[simp] theorem State.setOp_word (d : Word) : (s.setOp d).word = s.word := rfl
@[simp] theorem State.setOp_addr (d : Word) : (s.setOp d).addr = s.addr := rfl
@[simp] theorem State.setOp_cmdb (d : Word) : (s.setOp d).cmdb = s.cmdb := rfl
@[simp] theorem State.setOp_cfg (d : Word) : (s.setOp d).cfg = s.cfg := rfl
@[simp] theorem State.setOp_seglen (d : Word) : (s.setOp d).seglen = s.seglen := rfl
@[simp] theorem State.setOp_smplen (d : Word) : (s.setOp d).smplen = s.smplen := rfl
@[simp] theorem State.setOp_smpch (d : Word) : (s.setOp d).smpch = s.smpch := rfl
@[simp] theorem State.setOp_wavlen (d : Word) : (s.setOp d).wavlen = s.wavlen := rfl
@[simp] theorem State.setOp_seg (d : Word) : (s.setOp d).seg = s.seg := rfl
@[simp] theorem State.setOp_smpl (d : Word) : (s.setOp d).smpl = s.smpl := rfl
@[simp] theorem State.setOp_smpr (d : Word) : (s.setOp d).smpr = s.smpr := rfl
@[simp] theorem State.setOp_wav (d : Word) : (s.setOp d).wav = s.wav := rfl
@[simp] theorem State.setOp_params (d : Word) : (s.setOp d).params = s.params := rfl
@[simp] theorem State.setOp_pollsLeft (d : Word) : (s.setOp d).pollsLeft = s.pollsLeft := rfl
@[simp] theorem State.setOp_draws (d : Word) : (s.setOp d).draws = s.draws := rfl
@[simp] theorem State.setOp_pending (d : Word) : (s.setOp d).pending = s.pending := rfl
@[simp] theorem State.setOp_reply (d : Word) : (s.setOp d).reply = s.reply := rfl

/-! ## State.setStatus -/

@[simp] theorem State.setStatus_op (v : BitVec 6) : (s.setStatus v).op = s.op := rfl
@[simp] theorem State.setStatus_status (v : BitVec 6) : (s.setStatus v).status = v := rfl
@[simp] theorem State.setStatus_hexlen (v : BitVec 6) : (s.setStatus v).hexlen = s.hexlen := rfl
@[simp] theorem State.setStatus_hexbuf (v : BitVec 6) : (s.setStatus v).hexbuf = s.hexbuf := rfl
@[simp] theorem State.setStatus_word (v : BitVec 6) : (s.setStatus v).word = s.word := rfl
@[simp] theorem State.setStatus_addr (v : BitVec 6) : (s.setStatus v).addr = s.addr := rfl
@[simp] theorem State.setStatus_cmdb (v : BitVec 6) : (s.setStatus v).cmdb = s.cmdb := rfl
@[simp] theorem State.setStatus_cfg (v : BitVec 6) : (s.setStatus v).cfg = s.cfg := rfl
@[simp] theorem State.setStatus_seglen (v : BitVec 6) : (s.setStatus v).seglen = s.seglen := rfl
@[simp] theorem State.setStatus_smplen (v : BitVec 6) : (s.setStatus v).smplen = s.smplen := rfl
@[simp] theorem State.setStatus_smpch (v : BitVec 6) : (s.setStatus v).smpch = s.smpch := rfl
@[simp] theorem State.setStatus_wavlen (v : BitVec 6) : (s.setStatus v).wavlen = s.wavlen := rfl
@[simp] theorem State.setStatus_seg (v : BitVec 6) : (s.setStatus v).seg = s.seg := rfl
@[simp] theorem State.setStatus_smpl (v : BitVec 6) : (s.setStatus v).smpl = s.smpl := rfl
@[simp] theorem State.setStatus_smpr (v : BitVec 6) : (s.setStatus v).smpr = s.smpr := rfl
@[simp] theorem State.setStatus_wav (v : BitVec 6) : (s.setStatus v).wav = s.wav := rfl
@[simp] theorem State.setStatus_params (v : BitVec 6) : (s.setStatus v).params = s.params := rfl
@[simp] theorem State.setStatus_pollsLeft (v : BitVec 6) : (s.setStatus v).pollsLeft = s.pollsLeft := rfl
@[simp] theorem State.setStatus_draws (v : BitVec 6) : (s.setStatus v).draws = s.draws := rfl
@[simp] theorem State.setStatus_pending (v : BitVec 6) : (s.setStatus v).pending = s.pending := rfl
@[simp] theorem State.setStatus_reply (v : BitVec 6) : (s.setStatus v).reply = s.reply := rfl

/-! ## State.setWord -/

@[simp] theorem State.setWord_op (w : Word) : (s.setWord w).op = s.op := rfl
@[simp] theorem State.setWord_status (w : Word) : (s.setWord w).status = s.status := rfl
@[simp] theorem State.setWord_hexlen (w : Word) : (s.setWord w).hexlen = s.hexlen := rfl
@[simp] theorem State.setWord_hexbuf (w : Word) : (s.setWord w).hexbuf = s.hexbuf := rfl
@[simp] theorem State.setWord_word (w : Word) : (s.setWord w).word = w := rfl
@[simp] theorem State.setWord_addr (w : Word) : (s.setWord w).addr = s.addr := rfl
@[simp] theorem State.setWord_cmdb (w : Word) : (s.setWord w).cmdb = s.cmdb := rfl
@[simp] theorem State.setWord_cfg (w : Word) : (s.setWord w).cfg = s.cfg := rfl
@[simp] theorem State.setWord_seglen (w : Word) : (s.setWord w).seglen = s.seglen := rfl
@[simp] theorem State.setWord_smplen (w : Word) : (s.setWord w).smplen = s.smplen := rfl
@[simp] theorem State.setWord_smpch (w : Word) : (s.setWord w).smpch = s.smpch := rfl
@[simp] theorem State.setWord_wavlen (w : Word) : (s.setWord w).wavlen = s.wavlen := rfl
@[simp] theorem State.setWord_seg (w : Word) : (s.setWord w).seg = s.seg := rfl
@[simp] theorem State.setWord_smpl (w : Word) : (s.setWord w).smpl = s.smpl := rfl
@[simp] theorem State.setWord_smpr (w : Word) : (s.setWord w).smpr = s.smpr := rfl
@[simp] theorem State.setWord_wav (w : Word) : (s.setWord w).wav = s.wav := rfl
@[simp] theorem State.setWord_params (w : Word) : (s.setWord w).params = s.params := rfl
@[simp] theorem State.setWord_pollsLeft (w : Word) : (s.setWord w).pollsLeft = s.pollsLeft := rfl
@[simp] theorem State.setWord_draws (w : Word) : (s.setWord w).draws = s.draws := rfl
@[simp] theorem State.setWord_pending (w : Word) : (s.setWord w).pending = s.pending := rfl
@[simp] theorem State.setWord_reply (w : Word) : (s.setWord w).reply = s.reply := rfl

/-! ## State.setAddrCmdb -/

@[simp] theorem State.setAddrCmdb_op (a c : Byte) : (s.setAddrCmdb a c).op = s.op := rfl
@[simp] theorem State.setAddrCmdb_status (a c : Byte) : (s.setAddrCmdb a c).status = s.status := rfl
@[simp] theorem State.setAddrCmdb_hexlen (a c : Byte) : (s.setAddrCmdb a c).hexlen = s.hexlen := rfl
@[simp] theorem State.setAddrCmdb_hexbuf (a c : Byte) : (s.setAddrCmdb a c).hexbuf = s.hexbuf := rfl
@[simp] theorem State.setAddrCmdb_word (a c : Byte) : (s.setAddrCmdb a c).word = s.word := rfl
@[simp] theorem State.setAddrCmdb_addr (a c : Byte) : (s.setAddrCmdb a c).addr = a := rfl
@[simp] theorem State.setAddrCmdb_cmdb (a c : Byte) : (s.setAddrCmdb a c).cmdb = c := rfl
@[simp] theorem State.setAddrCmdb_cfg (a c : Byte) : (s.setAddrCmdb a c).cfg = s.cfg := rfl
@[simp] theorem State.setAddrCmdb_seglen (a c : Byte) : (s.setAddrCmdb a c).seglen = s.seglen := rfl
@[simp] theorem State.setAddrCmdb_smplen (a c : Byte) : (s.setAddrCmdb a c).smplen = s.smplen := rfl
@[simp] theorem State.setAddrCmdb_smpch (a c : Byte) : (s.setAddrCmdb a c).smpch = s.smpch := rfl
@[simp] theorem State.setAddrCmdb_wavlen (a c : Byte) : (s.setAddrCmdb a c).wavlen = s.wavlen := rfl
@[simp] theorem State.setAddrCmdb_seg (a c : Byte) : (s.setAddrCmdb a c).seg = s.seg := rfl
@[simp] theorem State.setAddrCmdb_smpl (a c : Byte) : (s.setAddrCmdb a c).smpl = s.smpl := rfl
@[simp] theorem State.setAddrCmdb_smpr (a c : Byte) : (s.setAddrCmdb a c).smpr = s.smpr := rfl
@[simp] theorem State.setAddrCmdb_wav (a c : Byte) : (s.setAddrCmdb a c).wav = s.wav := rfl
@[simp] theorem State.setAddrCmdb_params (a c : Byte) : (s.setAddrCmdb a c).params = s.params := rfl
@[simp] theorem State.setAddrCmdb_pollsLeft (a c : Byte) : (s.setAddrCmdb a c).pollsLeft = s.pollsLeft := rfl
@[simp] theorem State.setAddrCmdb_draws (a c : Byte) : (s.setAddrCmdb a c).draws = s.draws := rfl
@[simp] theorem State.setAddrCmdb_pending (a c : Byte) : (s.setAddrCmdb a c).pending = s.pending := rfl
@[simp] theorem State.setAddrCmdb_reply (a c : Byte) : (s.setAddrCmdb a c).reply = s.reply := rfl

/-! ## State.clearHex -/

@[simp] theorem State.clearHex_op : (s.clearHex).op = s.op := rfl
@[simp] theorem State.clearHex_status : (s.clearHex).status = s.status := rfl
@[simp] theorem State.clearHex_hexlen : (s.clearHex).hexlen = 0 := rfl
@[simp] theorem State.clearHex_hexbuf : (s.clearHex).hexbuf = Vector.replicate 16 0 := rfl
@[simp] theorem State.clearHex_word : (s.clearHex).word = s.word := rfl
@[simp] theorem State.clearHex_addr : (s.clearHex).addr = s.addr := rfl
@[simp] theorem State.clearHex_cmdb : (s.clearHex).cmdb = s.cmdb := rfl
@[simp] theorem State.clearHex_cfg : (s.clearHex).cfg = s.cfg := rfl
@[simp] theorem State.clearHex_seglen : (s.clearHex).seglen = s.seglen := rfl
@[simp] theorem State.clearHex_smplen : (s.clearHex).smplen = s.smplen := rfl
@[simp] theorem State.clearHex_smpch : (s.clearHex).smpch = s.smpch := rfl
@[simp] theorem State.clearHex_wavlen : (s.clearHex).wavlen = s.wavlen := rfl
@[simp] theorem State.clearHex_seg : (s.clearHex).seg = s.seg := rfl
@[simp] theorem State.clearHex_smpl : (s.clearHex).smpl = s.smpl := rfl
@[simp] theorem State.clearHex_smpr : (s.clearHex).smpr = s.smpr := rfl
@[simp] theorem State.clearHex_wav : (s.clearHex).wav = s.wav := rfl
@[simp] theorem State.clearHex_params : (s.clearHex).params = s.params := rfl
@[simp] theorem State.clearHex_pollsLeft : (s.clearHex).pollsLeft = s.pollsLeft := rfl
@[simp] theorem State.clearHex_draws : (s.clearHex).draws = s.draws := rfl
@[simp] theorem State.clearHex_pending : (s.clearHex).pending = s.pending := rfl
@[simp] theorem State.clearHex_reply : (s.clearHex).reply = s.reply := rfl

/-! ## State.pushHex -/

@[simp] theorem State.pushHex_op (c : Byte) : (s.pushHex c).op = s.op := rfl
@[simp] theorem State.pushHex_status (c : Byte) : (s.pushHex c).status = s.status := rfl
@[simp] theorem State.pushHex_hexlen (c : Byte) : (s.pushHex c).hexlen = if s.hexlen.toNat < 255 then s.hexlen + 1 else s.hexlen := rfl
@[simp] theorem State.pushHex_hexbuf (c : Byte) : (s.pushHex c).hexbuf = s.hexbuf.setIfInBounds s.hexlen.toNat c := rfl
@[simp] theorem State.pushHex_word (c : Byte) : (s.pushHex c).word = s.word := rfl
@[simp] theorem State.pushHex_addr (c : Byte) : (s.pushHex c).addr = s.addr := rfl
@[simp] theorem State.pushHex_cmdb (c : Byte) : (s.pushHex c).cmdb = s.cmdb := rfl
@[simp] theorem State.pushHex_cfg (c : Byte) : (s.pushHex c).cfg = s.cfg := rfl
@[simp] theorem State.pushHex_seglen (c : Byte) : (s.pushHex c).seglen = s.seglen := rfl
@[simp] theorem State.pushHex_smplen (c : Byte) : (s.pushHex c).smplen = s.smplen := rfl
@[simp] theorem State.pushHex_smpch (c : Byte) : (s.pushHex c).smpch = s.smpch := rfl
@[simp] theorem State.pushHex_wavlen (c : Byte) : (s.pushHex c).wavlen = s.wavlen := rfl
@[simp] theorem State.pushHex_seg (c : Byte) : (s.pushHex c).seg = s.seg := rfl
@[simp] theorem State.pushHex_smpl (c : Byte) : (s.pushHex c).smpl = s.smpl := rfl
@[simp] theorem State.pushHex_smpr (c : Byte) : (s.pushHex c).smpr = s.smpr := rfl
@[simp] theorem State.pushHex_wav (c : Byte) : (s.pushHex c).wav = s.wav := rfl
@[simp] theorem State.pushHex_params (c : Byte) : (s.pushHex c).params = s.params := rfl
@[simp] theorem State.pushHex_pollsLeft (c : Byte) : (s.pushHex c).pollsLeft = s.pollsLeft := rfl
@[simp] theorem State.pushHex_draws (c : Byte) : (s.pushHex c).draws = s.draws := rfl
@[simp] theorem State.pushHex_pending (c : Byte) : (s.pushHex c).pending = s.pending := rfl
@[simp] theorem State.pushHex_reply (c : Byte) : (s.pushHex c).reply = s.reply := rfl

/-! ## State.setSeg -/

@[simp] theorem State.setSeg_op (segs : List Segment) : (s.setSeg segs).op = s.op := rfl
@[simp] theorem State.setSeg_status (segs : List Segment) : (s.setSeg segs).status = s.status := rfl
@[simp] theorem State.setSeg_hexlen (segs : List Segment) : (s.setSeg segs).hexlen = s.hexlen := rfl
@[simp] theorem State.setSeg_hexbuf (segs : List Segment) : (s.setSeg segs).hexbuf = s.hexbuf := rfl
@[simp] theorem State.setSeg_word (segs : List Segment) : (s.setSeg segs).word = s.word := rfl
@[simp] theorem State.setSeg_addr (segs : List Segment) : (s.setSeg segs).addr = s.addr := rfl
@[simp] theorem State.setSeg_cmdb (segs : List Segment) : (s.setSeg segs).cmdb = s.cmdb := rfl
@[simp] theorem State.setSeg_cfg (segs : List Segment) : (s.setSeg segs).cfg = s.cfg := rfl
@[simp] theorem State.setSeg_seglen (segs : List Segment) : (s.setSeg segs).seglen = lengthReg segs.length := rfl
@[simp] theorem State.setSeg_smplen (segs : List Segment) : (s.setSeg segs).smplen = s.smplen := rfl
@[simp] theorem State.setSeg_smpch (segs : List Segment) : (s.setSeg segs).smpch = s.smpch := rfl
@[simp] theorem State.setSeg_wavlen (segs : List Segment) : (s.setSeg segs).wavlen = s.wavlen := rfl
@[simp] theorem State.setSeg_seg (segs : List Segment) : (s.setSeg segs).seg = segs := rfl
@[simp] theorem State.setSeg_smpl (segs : List Segment) : (s.setSeg segs).smpl = s.smpl := rfl
@[simp] theorem State.setSeg_smpr (segs : List Segment) : (s.setSeg segs).smpr = s.smpr := rfl
@[simp] theorem State.setSeg_wav (segs : List Segment) : (s.setSeg segs).wav = s.wav := rfl
@[simp] theorem State.setSeg_params (segs : List Segment) : (s.setSeg segs).params = s.params := rfl
@[simp] theorem State.setSeg_pollsLeft (segs : List Segment) : (s.setSeg segs).pollsLeft = s.pollsLeft := rfl
@[simp] theorem State.setSeg_draws (segs : List Segment) : (s.setSeg segs).draws = s.draws := rfl
@[simp] theorem State.setSeg_pending (segs : List Segment) : (s.setSeg segs).pending = s.pending := rfl
@[simp] theorem State.setSeg_reply (segs : List Segment) : (s.setSeg segs).reply = s.reply := rfl

/-! ## State.setBuffer -/

@[simp] theorem State.setBuffer_op (ch : BitVec 2) (l r : List Sample) : (s.setBuffer ch l r).op = s.op := rfl
@[simp] theorem State.setBuffer_status (ch : BitVec 2) (l r : List Sample) : (s.setBuffer ch l r).status = s.status := rfl
@[simp] theorem State.setBuffer_hexlen (ch : BitVec 2) (l r : List Sample) : (s.setBuffer ch l r).hexlen = s.hexlen := rfl
@[simp] theorem State.setBuffer_hexbuf (ch : BitVec 2) (l r : List Sample) : (s.setBuffer ch l r).hexbuf = s.hexbuf := rfl
@[simp] theorem State.setBuffer_word (ch : BitVec 2) (l r : List Sample) : (s.setBuffer ch l r).word = s.word := rfl
@[simp] theorem State.setBuffer_addr (ch : BitVec 2) (l r : List Sample) : (s.setBuffer ch l r).addr = s.addr := rfl
@[simp] theorem State.setBuffer_cmdb (ch : BitVec 2) (l r : List Sample) : (s.setBuffer ch l r).cmdb = s.cmdb := rfl
@[simp] theorem State.setBuffer_cfg (ch : BitVec 2) (l r : List Sample) : (s.setBuffer ch l r).cfg = s.cfg := rfl
@[simp] theorem State.setBuffer_seglen (ch : BitVec 2) (l r : List Sample) : (s.setBuffer ch l r).seglen = s.seglen := rfl
@[simp] theorem State.setBuffer_smplen (ch : BitVec 2) (l r : List Sample) : (s.setBuffer ch l r).smplen = lengthReg l.length := rfl
@[simp] theorem State.setBuffer_smpch (ch : BitVec 2) (l r : List Sample) : (s.setBuffer ch l r).smpch = ch := rfl
@[simp] theorem State.setBuffer_wavlen (ch : BitVec 2) (l r : List Sample) : (s.setBuffer ch l r).wavlen = s.wavlen := rfl
@[simp] theorem State.setBuffer_seg (ch : BitVec 2) (l r : List Sample) : (s.setBuffer ch l r).seg = s.seg := rfl
@[simp] theorem State.setBuffer_smpl (ch : BitVec 2) (l r : List Sample) : (s.setBuffer ch l r).smpl = l := rfl
@[simp] theorem State.setBuffer_smpr (ch : BitVec 2) (l r : List Sample) : (s.setBuffer ch l r).smpr = r := rfl
@[simp] theorem State.setBuffer_wav (ch : BitVec 2) (l r : List Sample) : (s.setBuffer ch l r).wav = s.wav := rfl
@[simp] theorem State.setBuffer_params (ch : BitVec 2) (l r : List Sample) : (s.setBuffer ch l r).params = s.params := rfl
@[simp] theorem State.setBuffer_pollsLeft (ch : BitVec 2) (l r : List Sample) : (s.setBuffer ch l r).pollsLeft = s.pollsLeft := rfl
@[simp] theorem State.setBuffer_draws (ch : BitVec 2) (l r : List Sample) : (s.setBuffer ch l r).draws = s.draws := rfl
@[simp] theorem State.setBuffer_pending (ch : BitVec 2) (l r : List Sample) : (s.setBuffer ch l r).pending = s.pending := rfl
@[simp] theorem State.setBuffer_reply (ch : BitVec 2) (l r : List Sample) : (s.setBuffer ch l r).reply = s.reply := rfl

/-! ## State.setWav -/

@[simp] theorem State.setWav_op (out : List Byte) : (s.setWav out).op = s.op := rfl
@[simp] theorem State.setWav_status (out : List Byte) : (s.setWav out).status = s.status := rfl
@[simp] theorem State.setWav_hexlen (out : List Byte) : (s.setWav out).hexlen = s.hexlen := rfl
@[simp] theorem State.setWav_hexbuf (out : List Byte) : (s.setWav out).hexbuf = s.hexbuf := rfl
@[simp] theorem State.setWav_word (out : List Byte) : (s.setWav out).word = s.word := rfl
@[simp] theorem State.setWav_addr (out : List Byte) : (s.setWav out).addr = s.addr := rfl
@[simp] theorem State.setWav_cmdb (out : List Byte) : (s.setWav out).cmdb = s.cmdb := rfl
@[simp] theorem State.setWav_cfg (out : List Byte) : (s.setWav out).cfg = s.cfg := rfl
@[simp] theorem State.setWav_seglen (out : List Byte) : (s.setWav out).seglen = s.seglen := rfl
@[simp] theorem State.setWav_smplen (out : List Byte) : (s.setWav out).smplen = s.smplen := rfl
@[simp] theorem State.setWav_smpch (out : List Byte) : (s.setWav out).smpch = s.smpch := rfl
@[simp] theorem State.setWav_wavlen (out : List Byte) : (s.setWav out).wavlen = lengthReg out.length := rfl
@[simp] theorem State.setWav_seg (out : List Byte) : (s.setWav out).seg = s.seg := rfl
@[simp] theorem State.setWav_smpl (out : List Byte) : (s.setWav out).smpl = s.smpl := rfl
@[simp] theorem State.setWav_smpr (out : List Byte) : (s.setWav out).smpr = s.smpr := rfl
@[simp] theorem State.setWav_wav (out : List Byte) : (s.setWav out).wav = out := rfl
@[simp] theorem State.setWav_params (out : List Byte) : (s.setWav out).params = s.params := rfl
@[simp] theorem State.setWav_pollsLeft (out : List Byte) : (s.setWav out).pollsLeft = s.pollsLeft := rfl
@[simp] theorem State.setWav_draws (out : List Byte) : (s.setWav out).draws = s.draws := rfl
@[simp] theorem State.setWav_pending (out : List Byte) : (s.setWav out).pending = s.pending := rfl
@[simp] theorem State.setWav_reply (out : List Byte) : (s.setWav out).reply = s.reply := rfl

/-! ## State.takeEvent -/

@[simp] theorem State.takeEvent_op (rest : List BusEvent) : (s.takeEvent rest).op = s.op := rfl
@[simp] theorem State.takeEvent_status (rest : List BusEvent) : (s.takeEvent rest).status = s.status := rfl
@[simp] theorem State.takeEvent_hexlen (rest : List BusEvent) : (s.takeEvent rest).hexlen = s.hexlen := rfl
@[simp] theorem State.takeEvent_hexbuf (rest : List BusEvent) : (s.takeEvent rest).hexbuf = s.hexbuf := rfl
@[simp] theorem State.takeEvent_word (rest : List BusEvent) : (s.takeEvent rest).word = s.word := rfl
@[simp] theorem State.takeEvent_addr (rest : List BusEvent) : (s.takeEvent rest).addr = s.addr := rfl
@[simp] theorem State.takeEvent_cmdb (rest : List BusEvent) : (s.takeEvent rest).cmdb = s.cmdb := rfl
@[simp] theorem State.takeEvent_cfg (rest : List BusEvent) : (s.takeEvent rest).cfg = s.cfg := rfl
@[simp] theorem State.takeEvent_seglen (rest : List BusEvent) : (s.takeEvent rest).seglen = s.seglen := rfl
@[simp] theorem State.takeEvent_smplen (rest : List BusEvent) : (s.takeEvent rest).smplen = s.smplen := rfl
@[simp] theorem State.takeEvent_smpch (rest : List BusEvent) : (s.takeEvent rest).smpch = s.smpch := rfl
@[simp] theorem State.takeEvent_wavlen (rest : List BusEvent) : (s.takeEvent rest).wavlen = s.wavlen := rfl
@[simp] theorem State.takeEvent_seg (rest : List BusEvent) : (s.takeEvent rest).seg = s.seg := rfl
@[simp] theorem State.takeEvent_smpl (rest : List BusEvent) : (s.takeEvent rest).smpl = s.smpl := rfl
@[simp] theorem State.takeEvent_smpr (rest : List BusEvent) : (s.takeEvent rest).smpr = s.smpr := rfl
@[simp] theorem State.takeEvent_wav (rest : List BusEvent) : (s.takeEvent rest).wav = s.wav := rfl
@[simp] theorem State.takeEvent_params (rest : List BusEvent) : (s.takeEvent rest).params = s.params := rfl
@[simp] theorem State.takeEvent_pollsLeft (rest : List BusEvent) : (s.takeEvent rest).pollsLeft = s.pollsLeft := rfl
@[simp] theorem State.takeEvent_draws (rest : List BusEvent) : (s.takeEvent rest).draws = s.draws := rfl
@[simp] theorem State.takeEvent_pending (rest : List BusEvent) : (s.takeEvent rest).pending = rest := rfl
@[simp] theorem State.takeEvent_reply (rest : List BusEvent) : (s.takeEvent rest).reply = none := rfl

/-! ## State.openBusyWindow: everything but STATUS, the polls left and the draw counter stays -/

@[simp] theorem State.openBusyWindow_op : s.openBusyWindow.op = s.op := by
  unfold State.openBusyWindow; split <;> rfl
@[simp] theorem State.openBusyWindow_hexlen : s.openBusyWindow.hexlen = s.hexlen := by
  unfold State.openBusyWindow; split <;> rfl
@[simp] theorem State.openBusyWindow_hexbuf : s.openBusyWindow.hexbuf = s.hexbuf := by
  unfold State.openBusyWindow; split <;> rfl
@[simp] theorem State.openBusyWindow_word : s.openBusyWindow.word = s.word := by
  unfold State.openBusyWindow; split <;> rfl
@[simp] theorem State.openBusyWindow_addr : s.openBusyWindow.addr = s.addr := by
  unfold State.openBusyWindow; split <;> rfl
@[simp] theorem State.openBusyWindow_cmdb : s.openBusyWindow.cmdb = s.cmdb := by
  unfold State.openBusyWindow; split <;> rfl
@[simp] theorem State.openBusyWindow_cfg : s.openBusyWindow.cfg = s.cfg := by
  unfold State.openBusyWindow; split <;> rfl
@[simp] theorem State.openBusyWindow_seglen : s.openBusyWindow.seglen = s.seglen := by
  unfold State.openBusyWindow; split <;> rfl
@[simp] theorem State.openBusyWindow_smplen : s.openBusyWindow.smplen = s.smplen := by
  unfold State.openBusyWindow; split <;> rfl
@[simp] theorem State.openBusyWindow_smpch : s.openBusyWindow.smpch = s.smpch := by
  unfold State.openBusyWindow; split <;> rfl
@[simp] theorem State.openBusyWindow_wavlen : s.openBusyWindow.wavlen = s.wavlen := by
  unfold State.openBusyWindow; split <;> rfl
@[simp] theorem State.openBusyWindow_seg : s.openBusyWindow.seg = s.seg := by
  unfold State.openBusyWindow; split <;> rfl
@[simp] theorem State.openBusyWindow_smpl : s.openBusyWindow.smpl = s.smpl := by
  unfold State.openBusyWindow; split <;> rfl
@[simp] theorem State.openBusyWindow_smpr : s.openBusyWindow.smpr = s.smpr := by
  unfold State.openBusyWindow; split <;> rfl
@[simp] theorem State.openBusyWindow_wav : s.openBusyWindow.wav = s.wav := by
  unfold State.openBusyWindow; split <;> rfl
@[simp] theorem State.openBusyWindow_params : s.openBusyWindow.params = s.params := by
  unfold State.openBusyWindow; split <;> rfl
@[simp] theorem State.openBusyWindow_pending : s.openBusyWindow.pending = s.pending := by
  unfold State.openBusyWindow; split <;> rfl
@[simp] theorem State.openBusyWindow_reply : s.openBusyWindow.reply = s.reply := by
  unfold State.openBusyWindow; split <;> rfl

/-! ## State.hardReset -/

@[simp] theorem State.hardReset_op : s.hardReset.op = State.reset.op := rfl
@[simp] theorem State.hardReset_status : s.hardReset.status = State.reset.status := rfl
@[simp] theorem State.hardReset_hexlen : s.hardReset.hexlen = State.reset.hexlen := rfl
@[simp] theorem State.hardReset_hexbuf : s.hardReset.hexbuf = State.reset.hexbuf := rfl
@[simp] theorem State.hardReset_word : s.hardReset.word = State.reset.word := rfl
@[simp] theorem State.hardReset_addr : s.hardReset.addr = State.reset.addr := rfl
@[simp] theorem State.hardReset_cmdb : s.hardReset.cmdb = State.reset.cmdb := rfl
@[simp] theorem State.hardReset_cfg : s.hardReset.cfg = State.reset.cfg := rfl
@[simp] theorem State.hardReset_seglen : s.hardReset.seglen = State.reset.seglen := rfl
@[simp] theorem State.hardReset_smplen : s.hardReset.smplen = State.reset.smplen := rfl
@[simp] theorem State.hardReset_smpch : s.hardReset.smpch = State.reset.smpch := rfl
@[simp] theorem State.hardReset_wavlen : s.hardReset.wavlen = State.reset.wavlen := rfl
@[simp] theorem State.hardReset_seg : s.hardReset.seg = State.reset.seg := rfl
@[simp] theorem State.hardReset_smpl : s.hardReset.smpl = State.reset.smpl := rfl
@[simp] theorem State.hardReset_smpr : s.hardReset.smpr = State.reset.smpr := rfl
@[simp] theorem State.hardReset_wav : s.hardReset.wav = State.reset.wav := rfl
@[simp] theorem State.hardReset_params : s.hardReset.params = s.params := rfl
@[simp] theorem State.hardReset_pollsLeft : s.hardReset.pollsLeft = State.reset.pollsLeft := rfl
@[simp] theorem State.hardReset_draws : s.hardReset.draws = s.draws := rfl
@[simp] theorem State.hardReset_pending : s.hardReset.pending = s.pending := rfl
@[simp] theorem State.hardReset_reply : s.hardReset.reply = State.reset.reply := rfl

end Sys2Proof.Machine
end

