-- ==== Sys2Proof/Laws/Ops.lean ====
section
/-! SUPPORT. The laws of the shared operations: the ends of a command, STATUS fields, length registers, memory updates and
what reads see of them, the busy window. Later proofs cite these and unfold nothing. -/

namespace Sys2Proof.Machine

/-! ## The ends of a command -/

theorem normalEnd_eq (s : State) : normalEnd s = .next { s with status := 0x02 } := rfl

theorem raise_eq (k : ErrorKind) (s : State) : raise k s = .next { s with status := statusErrorEnd k } := rfl

theorem statusErrorEnd_values : statusErrorEnd .formatError = 0x16 ∧ statusErrorEnd .invalidArgument = 0x26 ∧
    statusErrorEnd .illegalCommand = 0x36 := by decide

@[simp] theorem onNext_next (f : State → State) (s : State) : onNext f (.next s) = .next (f s) := rfl

@[simp] theorem onNext_refused (f : State → State) (r : Refusal) : onNext f (.refused r) = .refused r := rfl

theorem onNext_eq_next {f : State → State} {r : Result} {t : State} :
    onNext f r = .next t ↔ ∃ s, r = .next s ∧ f s = t := by
  cases r <;> simp [onNext]

/-! ## STATUS fields -/

theorem statusFields_pack (e : BitVec 2) (err done busy : Bool) :
    statusErrCode (packStatus e err done busy) = e ∧ statusErr (packStatus e err done busy) = err ∧
      statusDone (packStatus e err done busy) = done ∧ statusBusy (packStatus e err done busy) = busy ∧
      (packStatus e err done busy).getLsbD 3 = false := by
  revert e err done busy
  decide

theorem setBusyBit_fields (b : Bool) (v : BitVec 6) :
    statusErrCode (setBusyBit b v) = statusErrCode v ∧ statusErr (setBusyBit b v) = statusErr v ∧
      statusDone (setBusyBit b v) = statusDone v ∧ statusBusy (setBusyBit b v) = b ∧
      (setBusyBit b v).getLsbD 3 = false := by
  have h := statusFields_pack (statusErrCode v) (statusErr v) (statusDone v) b
  exact ⟨h.1, h.2.1, h.2.2.1, h.2.2.2.1, h.2.2.2.2⟩

/-! ## Length registers -/

theorem lengthReg_toNat {n : Nat} (h : n ≤ capBound) : (lengthReg n).toNat = n := by
  simp only [lengthReg, BitVec.toNat_ofNat]
  exact Nat.mod_eq_of_lt (by simp only [capBound] at h; omega)

theorem cap_le (c : Fin (capBound + 1)) : c.val ≤ capBound := Nat.lt_succ_iff.mp c.isLt

/-! ## Memory: an update within capacity keeps the canonical form -/

theorem setSeg_wf {s : State} {segs : List Segment} (h : Memory.wf s) (hcap : segs.length ≤ s.params.segCap.val)
    (hticks : ∀ g ∈ segs, 1 ≤ g.ticks ∧ g.ticks < 2 ^ 31) : Memory.wf (s.setSeg segs) :=
  ⟨⟨lengthReg_toNat (hcap.trans (cap_le _)), hcap, hticks⟩, h.2.1, h.2.2⟩

theorem setBuffer_wf {s : State} {ch : BitVec 2} {l r : List Sample} (h : Memory.wf s) (hch : ch = 1 ∨ ch = 2)
    (hcap : l.length ≤ s.params.smpCap.val) (hr : r.length = if ch = 2 then l.length else 0)
    (hl : ∀ x ∈ l, -1 ≤ x ∧ x ≤ 1) (hrr : ∀ x ∈ r, -1 ≤ x ∧ x ≤ 1) : Memory.wf (s.setBuffer ch l r) := by
  refine ⟨h.1, ⟨?_, lengthReg_toNat (hcap.trans (cap_le _)), hcap, hr, ?_, hl, hrr⟩, h.2.2⟩
  · rcases hch with rfl | rfl <;> simp
  · rcases hch with rfl | rfl <;> simp

theorem setWav_wf {s : State} {out : List Byte} (h : Memory.wf s) (hcap : out.length ≤ s.params.wavCap.val) :
    Memory.wf (s.setWav out) :=
  ⟨h.1, h.2.1, lengthReg_toNat (hcap.trans (cap_le _)), hcap⟩

theorem setStatus_wf {s : State} (v : BitVec 6) (h : Memory.wf s) : Memory.wf (s.setStatus v) := h

theorem reset_memory_wf : Memory.wf State.reset := by decide

theorem hardReset_memory_wf (s : State) : Memory.wf s.hardReset := by
  refine ⟨⟨rfl, Nat.zero_le _, ?_⟩, ⟨by simp [State.reset], rfl, Nat.zero_le _, rfl, fun _ => rfl, ?_, ?_⟩,
    rfl, Nat.zero_le _⟩ <;> intro x hx <;> cases hx

/-! ## Memory: read after write, and a write leaves every other space alone -/

@[simp] theorem validSegs_of_wf {s : State} (h : Memory.wf s) : s.validSegs = s.seg := by
  rw [State.validSegs, h.1.1, List.take_length]

@[simp] theorem validLeft_of_wf {s : State} (h : Memory.wf s) : s.validLeft = s.smpl := by
  rw [State.validLeft, h.2.1.2.1, List.take_length]

theorem validRight_of_wf {s : State} (h : Memory.wf s) : s.validRight = s.smpr := by
  obtain ⟨-, hlen, -, hr, -⟩ := h.2.1
  rw [State.validRight, hlen]
  apply List.take_of_length_le
  rw [hr]; split <;> omega

@[simp] theorem validWav_of_wf {s : State} (h : Memory.wf s) : s.validWav = s.wav := by
  rw [State.validWav, h.2.2.1, List.take_length]

theorem validSegs_setSeg {s : State} {segs : List Segment} (h : segs.length ≤ s.params.segCap.val) :
    (s.setSeg segs).validSegs = segs := by
  rw [State.validSegs, State.setSeg_seglen, State.setSeg_seg, lengthReg_toNat (h.trans (cap_le _)), List.take_length]

/-! ## Register slots -/

theorem slotOf_number (r : Slot) : slotOf r.number = some r := by
  cases r with
  | hexbuf i => revert i; decide
  | _ => rfl

theorem slotOf_eq_some {n : Nat} {r : Slot} (h : slotOf n = some r) : n = r.number := by
  unfold slotOf at h
  split at h <;> try (cases h; rfl)
  split at h
  · cases h; simp only [Slot.number]; omega
  · cases h

/-- A bus address selects a register exactly when it is the register's number. -/
theorem targetSlot_eq_some {a : Word} {r : Slot} : targetSlot a = some r ↔ a.toNat = r.number := by
  have hr : r.number < 0x30 := by
    cases r <;> simp only [Slot.number] <;> omega
  have hi : indexOf a = a.toNat % 2 ^ 28 := by simp [indexOf]
  have hs : (a.extractLsb' 28 4).toNat = a.toNat / 2 ^ 28 := by
    have := a.isLt
    simp only [BitVec.extractLsb'_toNat, Nat.shiftRight_eq_div_pow]; omega
  unfold targetSlot spaceOf
  rw [hs, hi]
  constructor
  · intro h
    split at h <;> try cases h
    rename_i h0
    split at h0 <;> try cases h0
    rw [← slotOf_eq_some h]; omega
  · intro h
    rw [h, Nat.div_eq_of_lt (by omega), Nat.mod_eq_of_lt (by omega)]
    exact slotOf_number r

/-! ## The busy window -/

theorem openBusyWindow_reference {s : State} (h : s.params.busyPolls = 0) : s.openBusyWindow = s := by
  simp [State.openBusyWindow, h]

/-- Everything the opening of the busy window can do. -/
theorem openBusyWindow_cases (s : State) :
    (s.params.busyPolls = 0 ∧ s.openBusyWindow = s) ∨
      ∃ n, n ≤ s.params.busyPolls ∧ s.openBusyWindow =
        { s with draws := s.draws + 1, pollsLeft := n, status := setBusyBit (decide (0 < n)) s.status } := by
  by_cases h : s.params.busyPolls = 0
  · exact .inl ⟨h, openBusyWindow_reference h⟩
  · refine .inr ⟨Config.freePolls s.draws % (s.params.busyPolls + 1), ?_, ?_⟩
    · exact Nat.lt_succ_iff.mp (Nat.mod_lt _ (Nat.succ_pos _))
    · simp [State.openBusyWindow, h]

end Sys2Proof.Machine
end

