-- ==== Sys2Proof/Laws/Codec.lean ====
section
/-! SUPPORT. The laws of the units' functions: the lengths and blocks of the NEC list, the render checks, the rendering of a
segment, the quantized bytes. -/

namespace Sys2Proof.Machine

/-! ## The NEC list (41_timing_model.md) -/

theorem byteSegments_length (v : Byte) : (byteSegments v).length = 16 := by
  simp [byteSegments, List.range_succ]

theorem frame_length (a c : Byte) : (frame a c).length = 67 := by
  simp [frame, payload, byteSegments_length]

/-- ENCREP's list is the gapped frame, `rep` times over. -/
theorem repeatedFrames_eq (a c : Byte) (gap : Segment) {rep : Nat} (h : 0 < rep) :
    repeatedFrames a c gap rep = (List.replicate rep (frame a c ++ [gap])).flatten := by
  obtain ⟨n, rfl⟩ : ∃ n, rep = n + 1 := ⟨rep - 1, by omega⟩
  have hpre : ∀ m, m ≤ n → ((List.range m).flatMap fun r => frame a c ++ if r < n + 1 - 1 then [gap] else []) =
      (List.replicate m (frame a c ++ [gap])).flatten := by
    intro m
    induction m with
    | zero => intro; rfl
    | succ k ih =>
      intro hk
      rw [List.range_succ, List.flatMap_append, ih (by omega), List.replicate_succ', List.flatten_append]
      simp [show k < n by omega]
  rw [repeatedFrames, List.range_succ, List.flatMap_append, hpre n le_rfl, List.replicate_succ', List.flatten_append]
  simp

theorem repeatedFrames_length (a c : Byte) (gap : Segment) {rep : Nat} (h : 0 < rep) :
    (repeatedFrames a c gap rep).length = 68 * rep := by
  rw [repeatedFrames_eq a c gap h]
  simp [List.length_flatten, frame_length]; ring

/-- A block of a list repeated. -/
theorem getElem?_flatten_replicate {α : Type} (l : List α) (n r j : Nat) (hr : r < n) (hj : j < l.length) :
    (List.replicate n l).flatten[l.length * r + j]? = l[j]? := by
  induction n generalizing r with
  | zero => omega
  | succ n ih =>
    rw [List.replicate_succ, List.flatten_cons]
    cases r with
    | zero => simp [List.getElem?_append_left hj]
    | succ r =>
      rw [List.getElem?_append_right (by rw [Nat.mul_succ]; omega), ← ih r (by omega)]
      congr 1
      rw [Nat.mul_succ]; omega

/-- A whole block of a list repeated. -/
theorem take_drop_flatten_replicate {α : Type} (l : List α) (n r : Nat) (hr : r < n) :
    ((List.replicate n l).flatten.drop (l.length * r)).take l.length = l := by
  induction n generalizing r with
  | zero => omega
  | succ n ih =>
    rw [List.replicate_succ, List.flatten_cons]
    cases r with
    | zero => simp
    | succ r =>
      rw [Nat.mul_succ, Nat.add_comm, ← List.drop_drop, List.drop_left]
      exact ih r (by omega)

/-- Frame `r` of ENCREP's list, with its gap. -/
theorem repeatedFrames_block (a c : Byte) (gap : Segment) {rep r : Nat} (hr : r < rep) :
    ((repeatedFrames a c gap rep).drop (68 * r)).take 68 = frame a c ++ [gap] := by
  have hl : (frame a c ++ [gap]).length = 68 := by simp [frame_length]
  rw [repeatedFrames_eq a c gap (by omega), ← hl]
  exact take_drop_flatten_replicate _ _ _ hr

/-! ## Legality and rendering (42_carrier_synth.md) -/

theorem renderStyle_eq_some {cfg : GenConfig} {m : Modulation} :
    renderStyle cfg = some m ↔ RenderLegal cfg ∧ modulationOf cfg.mode = some m := by
  have hm : modulationOf cfg.mode = some m → cfg.mode ≠ 3 := by
    intro h h3; rw [h3] at h; cases h
  unfold renderStyle RenderLegal
  constructor
  · intro h
    split at h
    · cases h
    · rename_i hn
      push Not at hn
      exact ⟨⟨hn.1, hn.2.1, hm h, hn.2.2.1, ⟨hn.2.2.2.2.1, hn.2.2.2.2.2.1⟩, hn.2.2.2.2.2.2, hn.2.2.2.1⟩, h⟩
  · rintro ⟨⟨h1, h2, h3, h4, ⟨h5, h6⟩, h7, h8⟩, h⟩
    rw [if_neg, h]
    push Not
    exact ⟨h1, h2, h4, h8, h5, h6, h7⟩

theorem modulationOf_isSome {m : BitVec 2} (h : m ≠ 3) : ∃ x, modulationOf m = some x := by
  have : ∀ m : BitVec 2, m ≠ 3 → (modulationOf m).isSome = true := by decide
  exact Option.isSome_iff_exists.1 (this m h)

theorem modulationOf_cases {mode : BitVec 2} {m : Modulation} (h : modulationOf mode = some m) :
    (mode = 0 ∧ m = .stereoDiff) ∨ (mode = 1 ∧ m = .monoSquare) ∨ (mode = 2 ∧ m = .monoSine) := by
  revert mode m; decide

theorem renderLegal_style {cfg : GenConfig} (h : RenderLegal cfg) :
    ∃ m, renderStyle cfg = some m ∧ modulationOf cfg.mode = some m := by
  obtain ⟨m, hm⟩ := modulationOf_isSome h.2.2.1
  exact ⟨m, renderStyle_eq_some.2 ⟨h, hm⟩, hm⟩

/-- Everything `renderInto` can do. -/
theorem renderInto_cases (m : Modulation) (segs : List Segment) (s : State) :
    (s.params.smpCap.val < totalSamples s.cfg segs ∧ renderInto m segs s = .refused .smpCapacity) ∨
      (totalSamples s.cfg segs ≤ s.params.smpCap.val ∧ renderInto m segs s = .next
        { s with
          smpl := segs.flatMap (renderLeft m s.cfg)
          smpr := segs.flatMap (renderRight m s.cfg)
          smplen := lengthReg (segs.flatMap (renderLeft m s.cfg)).length
          smpch := channelCount m
          status := 0x02 }) := by
  unfold renderInto
  by_cases h : s.params.smpCap.val < totalSamples s.cfg segs
  · exact .inl ⟨h, if_pos h⟩
  · exact .inr ⟨Nat.not_lt.1 h, by rw [if_neg h]; rfl⟩

theorem renderLeft_length (m : Modulation) (cfg : GenConfig) (g : Segment) :
    (renderLeft m cfg g).length = sampleCount cfg g.ticks := by simp [renderLeft]

theorem flatMap_renderLeft_length (m : Modulation) (cfg : GenConfig) (segs : List Segment) :
    (segs.flatMap (renderLeft m cfg)).length = totalSamples cfg segs := by
  simp [List.length_flatMap, totalSamples, renderLeft_length]

/-- Entry `i` of block `j` of a concatenation. -/
theorem getElem?_flatMap_at {α β : Type} (f : α → List β) (l : List α) (j i : Nat) (x : α)
    (hj : l[j]? = some x) (hi : i < (f x).length) :
    (l.flatMap f)[((l.take j).map fun y => (f y).length).sum + i]? = (f x)[i]? := by
  induction l generalizing j with
  | nil => simp at hj
  | cons y l ih =>
    cases j with
    | zero =>
      simp at hj; subst hj
      simp [List.getElem?_append_left hi]
    | succ j =>
      simp only [List.getElem?_cons_succ] at hj
      rw [List.flatMap_cons, List.take_succ_cons, List.map_cons, List.sum_cons,
        List.getElem?_append_right (by omega), ← ih j hj]
      congr 1; omega

theorem leftAt_leftSample {cfg : GenConfig} {m : Modulation} (hm : modulationOf cfg.mode = some m) (k : SegKind) (i : Nat) :
    LeftAt cfg k i (leftSample m k cfg i) := by
  rcases modulationOf_cases hm with ⟨h, rfl⟩ | ⟨h, rfl⟩ | ⟨h, rfl⟩ <;> cases k <;>
    simp only [LeftAt, h]
  all_goals
    refine ⟨fun h1 h2 => ?_, fun h1 h2 => ?_, fun h1 h2 => ?_, fun h1 h2 => ?_, fun h1 h2 => ?_⟩
  all_goals
    first
      | (exact absurd h1 (by decide))
      | (cases h2; done)
      | rfl
      | exact ⟨fun h3 => if_pos (decide_eq_true h3), fun h3 => if_neg (fun h4 => h3 (of_decide_eq_true h4))⟩

theorem rightAt_rightSample (cfg : GenConfig) (k : SegKind) (i : Nat) :
    RightAt cfg k i (rightSample k cfg i) := by
  cases k <;>
    simp only [RightAt]
  all_goals
    refine ⟨fun h2 => ?_, fun h2 => ?_⟩
  all_goals
    first
      | (cases h2; done)
      | rfl
      | exact ⟨fun h3 => if_pos (decide_eq_true h3), fun h3 => if_neg (fun h4 => h3 (of_decide_eq_true h4))⟩

theorem carrierOn_iff (cfg : GenConfig) (i : Nat) : carrierOn cfg i = true ↔ OnAt cfg i := decide_eq_true_iff

theorem carrierHigh_iff (cfg : GenConfig) (i : Nat) : carrierHigh cfg i = true ↔ HighAt cfg i := decide_eq_true_iff

theorem sine_range (phase : Rat) : -1 ≤ sine phase ∧ sine phase ≤ 1 :=
  ⟨le_max_left _ _, max_le (by norm_num) (min_le_left _ _)⟩

/-- The rounding of the quantizer, as bounds. -/
theorem roundHalfUp_eq_iff (x : Rat) (n : Int) : roundHalfUp x = n ↔ (n : Rat) ≤ x + 1 / 2 ∧ x + 1 / 2 < n + 1 := by
  unfold roundHalfUp
  rw [show (x + 1 / 2).floor = ⌊x + 1 / 2⌋ from rfl, Int.floor_eq_iff]

/-! ## Totals (42_carrier_synth.md R152, 43_assembler.md R182) -/

theorem totalSamples_append (cfg : GenConfig) (a b : List Segment) :
    totalSamples cfg (a ++ b) = totalSamples cfg a + totalSamples cfg b := by simp [totalSamples]

theorem startOf_length (cfg : GenConfig) (segs : List Segment) :
    startOf cfg segs segs.length = totalSamples cfg segs := by
  simp [startOf, totalSamples, countOf, sampleCount]

/-- The segments of a byte and of its complement together: 24 of 1125 ticks and 8 of 3375. -/
theorem byteSegments_total (cfg : GenConfig) (v : Byte) :
    totalSamples cfg (byteSegments v) + totalSamples cfg (byteSegments (complement8 v)) =
      24 * sampleCount cfg 1125 + 8 * sampleCount cfg 3375 := by
  have hc : ∀ b, b < 8 → (complement8 v).getLsbD b = !v.getLsbD b := by
    have : complement8 v = ~~~v := by revert v; decide
    intro b hb
    rw [this, BitVec.getLsbD_not, decide_eq_true hb, Bool.true_and]
  have hk : ∀ b : Bool, sampleCount cfg (if b = true then 3375 else 1125) +
      sampleCount cfg (if (!b) = true then 3375 else 1125) = sampleCount cfg 1125 + sampleCount cfg 3375 := by
    intro b; cases b <;> simp; omega
  have h0 := hk (v.getLsbD 0)
  have h1 := hk (v.getLsbD 1)
  have h2 := hk (v.getLsbD 2)
  have h3 := hk (v.getLsbD 3)
  have h4 := hk (v.getLsbD 4)
  have h5 := hk (v.getLsbD 5)
  have h6 := hk (v.getLsbD 6)
  have h7 := hk (v.getLsbD 7)
  simp only [totalSamples, byteSegments, List.range_succ, List.range_zero, List.nil_append, List.flatMap_append,
    List.flatMap_cons, List.flatMap_nil, List.append_nil, List.map_append, List.map_cons, List.map_nil,
    List.sum_append, List.sum_cons, List.sum_nil, bitPulse, bitSpace, hc 0 (by omega), hc 1 (by omega),
    hc 2 (by omega), hc 3 (by omega), hc 4 (by omega), hc 5 (by omega), hc 6 (by omega), hc 7 (by omega)]
  omega

theorem gappedFrame_total (cfg : GenConfig) (a c : Byte) :
    totalSamples cfg (frame a c ++ [gapSegment cfg]) = frameSamples cfg := by
  have ha := byteSegments_total cfg a
  have hc := byteSegments_total cfg c
  have h1 : ∀ g, totalSamples cfg [g] = sampleCount cfg g.ticks := by intro g; simp [totalSamples]
  have h2 : totalSamples cfg [leaderPulse, leaderSpace] = sampleCount cfg 18000 + sampleCount cfg 9000 := by
    simp [totalSamples, leaderPulse, leaderSpace]
  simp only [frame, payload, totalSamples_append, List.flatMap_cons, List.flatMap_nil, List.append_nil, h1, h2,
    bitPulse, gapSegment]
  change _ = sampleCount cfg 18000 + sampleCount cfg 9000 + 49 * sampleCount cfg 1125 + 16 * sampleCount cfg 3375 +
    sampleCount cfg (2 * cfg.gapUs.toNat)
  omega

theorem repeatedFrames_total (cfg : GenConfig) (a c : Byte) {rep : Nat} (h : 0 < rep) :
    totalSamples cfg (repeatedFrames a c (gapSegment cfg) rep) = rep * frameSamples cfg := by
  rw [repeatedFrames_eq _ _ _ h]
  clear h
  induction rep with
  | zero => simp [totalSamples]
  | succ n ih => rw [List.replicate_succ, List.flatten_cons, totalSamples_append, ih, gappedFrame_total]; ring

/-! ## Fields of a byte sequence (44_wav.md R203) -/

theorem leField_append_left (a b : List Byte) (o w : Nat) (h : o + w ≤ a.length) :
    leField (a ++ b) o w = leField a o w := by
  induction w generalizing o with
  | zero => rfl
  | succ w ih => simp only [leField]; rw [ih (o + 1) (by omega), List.getElem?_append_left (by omega)]

theorem leField_append_right (a b : List Byte) (o w : Nat) : leField (a ++ b) (a.length + o) w = leField b o w := by
  induction w generalizing o with
  | zero => rfl
  | succ w ih =>
    simp only [leField]
    rw [Nat.add_assoc, ih (o + 1), List.getElem?_append_right (by omega)]
    simp

/-- A field inside block `m` of equal blocks. -/
theorem leField_flatMap {α : Type} (f : α → List Byte) (k : Nat) (hk : ∀ x, (f x).length = k) (l : List α)
    (m o w : Nat) (x : α) (hx : l[m]? = some x) (how : o + w ≤ k) :
    leField (l.flatMap f) (k * m + o) w = leField (f x) o w := by
  induction l generalizing m with
  | nil => simp at hx
  | cons y l ih =>
    cases m with
    | zero =>
      simp at hx; subst hx
      rw [Nat.mul_zero, Nat.zero_add, List.flatMap_cons]
      exact leField_append_left _ _ _ _ (by rw [hk]; exact how)
    | succ m =>
      simp only [List.getElem?_cons_succ] at hx
      rw [List.flatMap_cons, show k * (m + 1) + o = (f y).length + (k * m + o) by rw [hk]; ring, leField_append_right]
      exact ih m hx

theorem leField_le16 (v : BitVec 16) : leField (le16 v) 0 2 = v.toNat := by
  have := v.isLt
  simp [leField, le16, Nat.shiftRight_eq_div_pow]; omega

theorem wavHeader_length (n ch fs : Nat) : (wavHeader n ch fs).length = 44 := by simp [wavHeader, le32, le16]

theorem pcmData_length {s : State} (h : Memory.wf s) (hch : s.smpch = 1 ∨ s.smpch = 2) :
    s.pcmData.length = dataLength s.smplen.toNat s.smpch.toNat := by
  obtain ⟨-, hlen, -, hr, -⟩ := h.2.1
  unfold State.pcmData dataLength
  rw [validLeft_of_wf h, validRight_of_wf h]
  rcases hch with hc | hc
  · rw [if_neg (by rw [hc]; decide)]
    simp [pcmMono, List.length_flatMap, pcmBytes, le16, hc, hlen]
  · rw [if_pos hc]
    rw [hc] at hr; simp at hr
    simp [pcmStereo, List.length_flatMap, pcmBytes, le16, hc, hlen, hr]; ring

end Sys2Proof.Machine
end

