-- ==== Sys2Proof/Laws/Commands.lean ====
section
/-! SUPPORT. Everything a command can do, said once: the inversion of `exec`, and of the step. -/

namespace Sys2Proof.Machine

/-- `u` is `s` with the rendering of `segs` in the sample buffer, which fits. -/
def RenderWrites (m : Modulation) (segs : List Segment) (s u : State) : Prop :=
  totalSamples s.cfg segs ≤ s.params.smpCap.val ∧
    ∃ l r, l = segs.flatMap (renderLeft m s.cfg) ∧ r = segs.flatMap (renderRight m s.cfg) ∧
      u = s.setBuffer (channelCount m) l r

/-- `u` is `s` with the list GENERATE builds and its rendering, which fit. -/
def GenerateWrites (m : Modulation) (s u : State) : Prop :=
  68 * s.cfg.rep.toNat ≤ s.params.segCap.val ∧
    ∃ segs, segs = repeatedFrames s.addr s.cmdb (gapSegment s.cfg) s.cfg.rep.toNat ∧
      RenderWrites m segs (s.setSeg segs) u

/-- What a command that ends normally has written, and the checks it has passed: `u` is the state before STATUS is set. -/
def CommandWrites (i : Instr) (s u : State) : Prop :=
  match i with
  | .nop => u = s
  | .hexclr => u = s.clearHex
  | .decodehex => ∃ w, s.hexString.bind parseHex = some w ∧ u = s.setWord w
  | .fields => u = s.setAddrCmdb (addressField s.word) (commandField s.word)
  | .pack => u = s.setWord (commandWord s.addr s.cmdb)
  | .encframe => s.cfg.gapUs ≠ 0 ∧ 68 ≤ s.params.segCap.val ∧
      ∃ segs, segs = frame s.addr s.cmdb ++ [gapSegment s.cfg] ∧ u = s.setSeg segs
  | .encrep => s.cfg.rep ≠ 0 ∧ s.cfg.gapUs ≠ 0 ∧ 68 * s.cfg.rep.toNat ≤ s.params.segCap.val ∧
      ∃ segs, segs = repeatedFrames s.addr s.cmdb (gapSegment s.cfg) s.cfg.rep.toNat ∧ u = s.setSeg segs
  | .render idx => ∃ m g, renderStyle s.cfg = some m ∧ s.validSegs[idx]? = some g ∧ RenderWrites m [g] s u
  | .assemble => ∃ m, renderStyle s.cfg = some m ∧ RenderWrites m s.validSegs s u
  | .generate => ∃ m, renderStyle s.cfg = some m ∧ s.cfg.rep ≠ 0 ∧ s.cfg.gapUs ≠ 0 ∧ GenerateWrites m s u
  | .genword => ∃ m, renderStyle s.cfg = some m ∧ s.cfg.rep ≠ 0 ∧ s.cfg.gapUs ≠ 0 ∧
      GenerateWrites m (s.setAddrCmdb (addressField s.word) (commandField s.word)) u
  | .towav => (s.smpch = 1 ∨ s.smpch = 2) ∧ s.cfg.sampleHz ≠ 0 ∧
      44 + dataLength s.smplen.toNat s.smpch.toNat ≤ s.params.wavCap.val ∧
      s.cfg.sampleHz.toNat * 2 * s.smpch.toNat < 2 ^ 32 ∧
      ∃ out, out = wavHeader s.smplen.toNat s.smpch.toNat s.cfg.sampleHz.toNat ++ s.pcmData ∧ u = s.setWav out

theorem normalEnd_next {s t : State} : normalEnd s = .next t ↔ t = s.setStatus statusNormalEnd := by
  simp [normalEnd, eq_comm]

theorem raise_next {k : ErrorKind} {s t : State} : raise k s = .next t ↔ t = s.setStatus (statusErrorEnd k) := by
  simp [raise, eq_comm]

theorem renderInto_next {m : Modulation} {segs : List Segment} {s t : State} (h : renderInto m segs s = .next t) :
    ∃ u, t = u.setStatus statusNormalEnd ∧ RenderWrites m segs s u := by
  unfold renderInto at h
  split at h
  · cases h
  · exact ⟨_, normalEnd_next.1 h, Nat.not_lt.1 ‹_›, _, _, rfl, rfl, rfl⟩

theorem generateInto_next {m : Modulation} {s t : State} (h : generateInto m s = .next t) :
    ∃ u, t = u.setStatus statusNormalEnd ∧ GenerateWrites m s u := by
  unfold generateInto at h
  split at h
  · cases h
  · obtain ⟨u, hu, hw⟩ := renderInto_next h
    exact ⟨u, hu, Nat.not_lt.1 ‹_›, _, rfl, hw⟩

theorem generateStyle_eq_some {cfg : GenConfig} {m : Modulation} :
    generateStyle cfg = some m ↔ renderStyle cfg = some m ∧ cfg.rep ≠ 0 ∧ cfg.gapUs ≠ 0 := by
  unfold generateStyle
  by_cases h : cfg.rep = 0 ∨ cfg.gapUs = 0
  · rw [if_pos h]
    constructor
    · intro h'; cases h'
    · rintro ⟨-, h1, h2⟩; rcases h with h | h <;> contradiction
  · rw [if_neg h, not_or] at *
    exact ⟨fun h' => ⟨h', h⟩, fun h' => h'.1⟩

/-- Everything a command that answers a next state can do: an error entry, which changes STATUS alone, or its writes and
then the normal end. -/
theorem exec_next_cases {i : Instr} {s t : State} (h : exec i s = .next t) :
    (∃ k, t = s.setStatus (statusErrorEnd k) ∧
        ((k = .formatError ∧ i = .decodehex) ∨ (k = .invalidArgument ∧ i ≠ .decodehex))) ∨
      ∃ u, t = u.setStatus statusNormalEnd ∧ CommandWrites i s u := by
  cases i with
  | nop => exact .inr ⟨s, normalEnd_next.1 h, rfl⟩
  | hexclr => exact .inr ⟨_, normalEnd_next.1 h, rfl⟩
  | decodehex =>
    simp only [exec, execDecodehex] at h
    split at h
    · exact .inl ⟨_, raise_next.1 h, .inl ⟨rfl, rfl⟩⟩
    · exact .inr ⟨_, normalEnd_next.1 h, _, ‹_›, rfl⟩
  | fields => exact .inr ⟨_, normalEnd_next.1 h, rfl⟩
  | pack => exact .inr ⟨_, normalEnd_next.1 h, rfl⟩
  | encframe =>
    simp only [exec, execEncframe] at h
    split at h
    · exact .inl ⟨_, raise_next.1 h, .inr ⟨rfl, nofun⟩⟩
    · split at h
      · cases h
      · exact .inr ⟨_, normalEnd_next.1 h, ‹_›, Nat.not_lt.1 ‹_›, _, rfl, rfl⟩
  | encrep =>
    simp only [exec, execEncrep] at h
    split at h
    · exact .inl ⟨_, raise_next.1 h, .inr ⟨rfl, nofun⟩⟩
    · rename_i hn
      rw [not_or] at hn
      split at h
      · cases h
      · exact .inr ⟨_, normalEnd_next.1 h, hn.1, hn.2, Nat.not_lt.1 ‹_›, _, rfl, rfl⟩
  | render idx =>
    simp only [exec, execRender] at h
    split at h
    · exact .inl ⟨_, raise_next.1 h, .inr ⟨rfl, nofun⟩⟩
    · split at h
      · exact .inl ⟨_, raise_next.1 h, .inr ⟨rfl, nofun⟩⟩
      · obtain ⟨u, hu, hw⟩ := renderInto_next h
        exact .inr ⟨u, hu, _, _, ‹_›, ‹_›, hw⟩
  | assemble =>
    simp only [exec, execAssemble] at h
    split at h
    · exact .inl ⟨_, raise_next.1 h, .inr ⟨rfl, nofun⟩⟩
    · obtain ⟨u, hu, hw⟩ := renderInto_next h
      exact .inr ⟨u, hu, _, ‹_›, hw⟩
  | generate =>
    simp only [exec, execGenerate] at h
    split at h
    · exact .inl ⟨_, raise_next.1 h, .inr ⟨rfl, nofun⟩⟩
    · rename_i hs
      obtain ⟨u, hu, hw⟩ := generateInto_next h
      obtain ⟨h1, h2, h3⟩ := generateStyle_eq_some.1 hs
      exact .inr ⟨u, hu, _, h1, h2, h3, hw⟩
  | genword =>
    simp only [exec, execGenword] at h
    split at h
    · exact .inl ⟨_, raise_next.1 h, .inr ⟨rfl, nofun⟩⟩
    · rename_i hs
      obtain ⟨u, hu, hw⟩ := generateInto_next h
      obtain ⟨h1, h2, h3⟩ := generateStyle_eq_some.1 hs
      exact .inr ⟨u, hu, _, h1, h2, h3, hw⟩
  | towav =>
    simp only [exec, execTowav] at h
    split at h
    · exact .inl ⟨_, raise_next.1 h, .inr ⟨rfl, nofun⟩⟩
    · rename_i hn
      rw [not_or, not_and_or, not_not, not_not] at hn
      split at h
      · cases h
      · split at h
        · cases h
        · exact .inr ⟨_, normalEnd_next.1 h, hn.1, hn.2, Nat.not_lt.1 ‹_›, Nat.not_le.1 ‹_›, _, rfl, rfl⟩

/-- The fields no command writes, whatever it does. -/
theorem exec_keeps {i : Instr} {s t : State} (h : exec i s = .next t) :
    t.op = s.op ∧ t.cfg = s.cfg ∧ t.params = s.params ∧ t.pollsLeft = s.pollsLeft ∧ t.draws = s.draws ∧
      t.pending = s.pending ∧ t.reply = s.reply := by
  rcases exec_next_cases h with ⟨k, rfl, -⟩ | ⟨u, rfl, hw⟩
  · simp
  · cases i with
    | nop => cases hw; simp
    | hexclr => cases hw; simp
    | decodehex => obtain ⟨w, -, rfl⟩ := hw; simp
    | fields => cases hw; simp
    | pack => cases hw; simp
    | encframe => obtain ⟨-, -, segs, -, rfl⟩ := hw; simp
    | encrep => obtain ⟨-, -, -, segs, -, rfl⟩ := hw; simp
    | render idx => obtain ⟨m, g, -, -, -, l, r, -, -, rfl⟩ := hw; simp
    | assemble => obtain ⟨m, -, -, l, r, -, -, rfl⟩ := hw; simp
    | generate => obtain ⟨m, -, -, -, -, segs, -, -, l, r, -, -, rfl⟩ := hw; simp
    | genword => obtain ⟨m, -, -, -, -, segs, -, -, l, r, -, -, rfl⟩ := hw; simp
    | towav => obtain ⟨-, -, -, -, out, -, rfl⟩ := hw; simp

/-! ## The step -/

/-- Everything a write to OP can do. -/
theorem runCommand_next {d : Word} {s t : State} (h : runCommand d s = .next t) :
    ∃ u, t = u.openBusyWindow ∧
      ((∃ i, decode d = .command i ∧ exec i (s.setOp d) = .next u) ∨
        ((∃ r, decode d = .illegal r) ∧ u = (s.setOp d).setStatus (statusErrorEnd .illegalCommand))) := by
  unfold runCommand at h
  cases hd : decode d with
  | command i =>
    rw [hd] at h
    obtain ⟨u, hu, rfl⟩ := onNext_eq_next.1 h
    exact ⟨u, rfl, .inl ⟨i, rfl, hu⟩⟩
  | illegal r =>
    rw [hd] at h
    obtain ⟨u, hu, rfl⟩ := onNext_eq_next.1 h
    exact ⟨u, rfl, .inr ⟨⟨r, rfl⟩, raise_next.1 hu⟩⟩

/-- Everything a step that answers a next state can do. -/
theorem step_next_cases {s t : State} (h : step s = .next t) :
    (s.pending = [] ∧ t = s) ∨
      (∃ rest, s.pending = .reset :: rest ∧ t = (s.takeEvent rest).hardReset) ∨
      (∃ a rest, s.pending = .read a :: rest ∧ s.busy = false ∧ t = answerRead a (s.takeEvent rest)) ∨
      (∃ a rest, s.pending = .read a :: rest ∧ s.busy = true ∧ targetSlot a = some .status ∧
        t = (s.takeEvent rest).pollBusy) ∨
      (∃ a d rest, s.pending = .write a d :: rest ∧ s.busy = false ∧ targetSlot a = some .op ∧
        runCommand d (s.takeEvent rest) = .next t) ∨
      (∃ a d rest r, s.pending = .write a d :: rest ∧ s.busy = false ∧ targetSlot a = some r ∧ r ≠ .op ∧
        t = writeSlot r d (s.takeEvent rest)) ∨
      ∃ a d rest, s.pending = .write a d :: rest ∧ s.busy = false ∧ targetSlot a = none ∧ t = s.takeEvent rest := by
  unfold step stepEvent at h
  cases hp : s.pending with
  | nil => rw [hp] at h; cases h; exact .inl ⟨rfl, rfl⟩
  | cons e rest =>
    rw [hp] at h
    have hbusy : (s.takeEvent rest).busy = s.busy := rfl
    cases e with
    | reset => cases h; exact .inr (.inl ⟨rest, rfl, rfl⟩)
    | read a =>
      simp only [transact, busRead, hbusy] at h
      cases hb : s.busy with
      | false =>
        rw [hb] at h
        cases h
        exact .inr (.inr (.inl ⟨a, rest, rfl, rfl, rfl⟩))
      | true =>
        rw [hb, if_pos rfl] at h
        split at h
        · cases h; exact .inr (.inr (.inr (.inl ⟨a, rest, rfl, rfl, ‹_›, rfl⟩)))
        · cases h
    | write a d =>
      simp only [transact, busWrite, hbusy] at h
      cases hb : s.busy with
      | true => rw [hb] at h; cases h
      | false =>
        rw [hb] at h
        by_cases hop : targetSlot a = some .op
        · rw [if_neg nofun, if_pos hop] at h
          exact .inr (.inr (.inr (.inr (.inl ⟨a, d, rest, rfl, rfl, hop, h⟩))))
        · rw [if_neg nofun, if_neg hop] at h
          cases ht : targetSlot a with
          | none =>
            rw [ht] at h; cases h
            exact .inr (.inr (.inr (.inr (.inr (.inr ⟨a, d, rest, rfl, rfl, ht, rfl⟩)))))
          | some r =>
            rw [ht] at h; cases h
            refine .inr (.inr (.inr (.inr (.inr (.inl ⟨a, d, rest, r, rfl, rfl, ht, ?_, rfl⟩)))))
            rintro rfl; exact hop ht

end Sys2Proof.Machine
end

