-- ==== Sys2Proof/Laws/PerInstr.lean ====
section
/-! SUPPORT. One law per command: the word of a well-formed command fits that command's row of spec/opcode_table.json. -/

namespace Sys2Proof.Laws.EncodeMatches

/-- The encoding of a well-formed command fits its row's mask and match (30_encoding.md R84). -/
def Statement (i : Instr) : Prop := i.wellFormed = true → encode i &&& i.tableMask = i.tableMatch

theorem nop : Statement .nop := fun _ => rfl

theorem hexclr : Statement .hexclr := fun _ => rfl

theorem decodehex : Statement .decodehex := fun _ => rfl

theorem fields : Statement .fields := fun _ => rfl

theorem pack : Statement .pack := fun _ => rfl

theorem encframe : Statement .encframe := fun _ => rfl

theorem encrep : Statement .encrep := fun _ => rfl

theorem render (idx : Nat) : Statement (.render idx) := by
  intro _
  apply BitVec.eq_of_getLsbD_eq
  intro k hk
  simp only [encode, Instr.upper, Instr.opcode, Instr.tableMask, Instr.tableMatch, BitVec.getLsbD_and,
    BitVec.getLsbD_append]
  by_cases h : k < 8
  · interval_cases k <;> rfl
  · rw [if_neg (by omega)]
    interval_cases k <;> simp

theorem assemble : Statement .assemble := fun _ => rfl

theorem generate : Statement .generate := fun _ => rfl

theorem genword : Statement .genword := fun _ => rfl

theorem towav : Statement .towav := fun _ => rfl

end Sys2Proof.Laws.EncodeMatches
end

