-- ==== Sys2Proof/Tests/Slice0.lean ====
section
/-! SUPPORT. Tests: decoding, single steps with the values of spec/95_test_vectors.md, and one witness for the hypotheses of
every statement that has any. -/

namespace Sys2Proof.Tests

open Sys2Proof Sys2Proof.Machine

/-! ## Helpers -/

/-- The next state, if there is one. -/
def nextOf : Result → Option State
  | .next s => some s
  | .fault _ => none
  | .refused _ => none

/-- The refusal, if there is one. -/
def refusalOf : Result → Option Refusal
  | .next _ => none
  | .fault _ => none
  | .refused r => some r

/-- The reset state with the host about to do one thing. -/
def about (e : BusEvent) : State := { State.reset with pending := [e] }

/-- The reset state after the characters `cs` were pushed, with WORD = 0xAAAAAAAA (T1). -/
def hexed (cs : List Byte) : State := { cs.foldl (fun s c => s.pushHex c) State.reset with word := 0xAAAAAAAA }

/-- The reset state with ADDR and CMDB. -/
def keyed (a c : Byte) : State := { State.reset with addr := a, cmdb := c }

/-- The reset state with a configuration. -/
def configured (cfg : GenConfig) : State := { State.reset with cfg := cfg }

/-- The reset state with other capacities and busy polls. -/
def limited (segCap smpCap wavCap busyPolls : Nat) : State :=
  { State.reset with
    params :=
      { segCap := Fin.ofNat (capBound + 1) segCap, smpCap := Fin.ofNat (capBound + 1) smpCap
        wavCap := Fin.ofNat (capBound + 1) wavCap, busyPolls := busyPolls } }

theorem about_busy (e : BusEvent) : (about e).busy = false := by
  change statusBusy 0 = false
  decide

/-- A stereo state with a segment, two samples a channel and two WAV bytes. -/
def filled : State :=
  { State.reset with
    seg := [⟨.pulse, 18000⟩, ⟨.space, 9000⟩], seglen := 2, smpl := [1, -1], smpr := [-1, 1], smplen := 2, smpch := 2
    wav := [0x52, 0x49], wavlen := 2 }

/-- A mono state with two samples. -/
def monoFilled : State := { State.reset with smpl := [1, -1], smplen := 2, smpch := 1 }

/-- A state with `n` busy polls left out of 2. -/
def busyState (n : Nat) (e : BusEvent) : State :=
  { limited 68 68 68 2 with status := 0x03, pollsLeft := n, pending := [e] }

/-! ## WellFormed -/

theorem test_wellFormed_refuses_wide_index : Instr.wellFormed (.render 16777216) = false := by decide

theorem test_wellFormed_takes_last_index : Instr.wellFormed (.render 16777215) = true := by decide

/-! ## Decoding: words written out from 30_encoding.md R84 and T50, field by field -/

theorem test_decode_codec : decode 0x00000000 = .command .nop ∧ decode 0x00000001 = .command .hexclr ∧
    decode 0x00000002 = .command .decodehex ∧ decode 0x00000003 = .command .fields ∧
    decode 0x00000004 = .command .pack := by decide

theorem test_decode_timing : decode 0x00000005 = .command .encframe ∧ decode 0x00000006 = .command .encrep := by decide

theorem test_decode_render : decode 0x00000207 = .command (.render 2) ∧ decode 0x00004307 = .command (.render 67) ∧
    decode 0x00000007 = .command (.render 0) ∧ decode 0xFFFFFF07 = .command (.render 16777215) := by decide

theorem test_decode_assembler : decode 0x00000008 = .command .assemble ∧ decode 0x00000009 = .command .generate ∧
    decode 0x0000000A = .command .genword := by decide

theorem test_decode_wav : decode 0x0000000B = .command .towav := by decide

theorem test_decode_illegal : decode 0x0000000C = .illegal .noSuchOpcode ∧ decode 0x000000FF = .illegal .noSuchOpcode ∧
    decode 0x00000109 = .illegal .upperBitsNotZero ∧ decode 0x80000000 = .illegal .upperBitsNotZero ∧
    decode 0xFFFFFFFF = .illegal .noSuchOpcode := by decide

theorem test_decode_table_word : decodeTableWord 32 0x00000207 = some (.render 2) ∧ decodeTableWord 8 0x09 = some .generate ∧
    decodeTableWord 32 0x0000000C = none := by decide

/-! ## Single commands -/

/-- T5. -/
theorem test_nop : (nextOf (exec .nop { State.reset with status := 0x16 })).map (fun t => t.status) = some 0x02 := by decide

/-- T2. -/
theorem test_hexclr : (nextOf (exec .hexclr (hexed [0x41, 0x42]))).map (fun t => (t.hexlen, t.hexbuf.get 0, t.status)) =
    some (0, 0, 0x02) := by decide

/-- T1, "0X20df10ef". -/
theorem test_decodehex : (nextOf (exec .decodehex
    (hexed [0x30, 0x58, 0x32, 0x30, 0x64, 0x66, 0x31, 0x30, 0x65, 0x66]))).map (fun t => (t.word, t.status)) =
    some (0x20DF10EF, 0x02) := by decide

/-- T1, "20DF10EG". -/
theorem test_decodehex_bad_digit : (nextOf (exec .decodehex
    (hexed [0x32, 0x30, 0x44, 0x46, 0x31, 0x30, 0x45, 0x47]))).map (fun t => (t.word, t.status)) =
    some (0xAAAAAAAA, 0x16) := by decide

/-- T3. -/
theorem test_fields : (nextOf (exec .fields { State.reset with word := 0x12345678 })).map (fun t => (t.addr, t.cmdb)) =
    some (0x12, 0x56) := by decide

/-- T4. -/
theorem test_pack : (nextOf (exec .pack (keyed 0x12 0x56))).map (fun t => t.word) = some 0x12ED56A9 := by decide

/-- T11, read over the bus. -/
theorem test_encframe : (nextOf (exec .encframe State.reset)).map (fun t => (t.seglen, [2, 3, 17, 18, 19, 66, 67].map fun j =>
    readValue (BitVec.ofNat 32 (0x10000000 + j)) t)) =
    some (68, [some 0x80000465, some 0x00000465, some 0x00000465, some 0x80000465, some 0x00000D2F, some 0x80000465,
      some 0x00013880]) := by decide

/-- T14, GAP_US = 0. -/
theorem test_encframe_no_gap :
    (nextOf (exec .encframe (configured { GenConfig.reset with gapUs := 0 }))).map (fun t => (t.status, t.seglen)) =
    some (0x26, 0) := by decide

/-- T13. -/
theorem test_encrep : (nextOf (exec .encrep (keyed 0xA5 0x01))).map (fun t => [3, 5, 7, 9, 11, 13, 15, 17].map fun j =>
    (t.seg[j]?).map fun g => g.ticks) =
    some [some 3375, some 1125, some 3375, some 1125, some 1125, some 3375, some 1125, some 3375] := by decide

/-- T12. -/
theorem test_encrep_three : (nextOf (exec .encrep { keyed 0x20 0x10 with cfg := { GenConfig.reset with rep := 3 } })).map
    (fun t => (t.seglen, [66, 67, 68, 135, 136, 203].map fun j => (t.seg[j]?).map fun g => g.ticks)) =
    some (204, [some 1125, some 80000, some 18000, some 80000, some 18000, some 80000]) := by decide +kernel

/-- T25: MODE 1 at 96000 Hz, the first samples of a Pulse as a bus read returns them. -/
theorem test_render : (nextOf (exec (.render 0)
    { State.reset with
      cfg := { GenConfig.reset with sampleHz := 96000, mode := 1, duty := 333, amp := 900 }
      seg := [⟨.pulse, 200⟩], seglen := 1 })).map
      (fun t => (t.smplen, t.smpch, [0, 1, 2, 3, 4, 8].map fun j => readValue (BitVec.ofNat 32 (0x20000000 + j)) t)) =
    some (9, 1, [some 29490, some 0, some 0, some 29490, some 0, some 29490]) := by decide +kernel

/-- T28. -/
theorem test_render_no_segment : (nextOf (exec (.render 0) State.reset)).map (fun t => (t.status, t.smpch)) =
    some (0x26, 0) := by decide

/-- T30. -/
theorem test_assemble_empty : (nextOf (exec .assemble State.reset)).map (fun t => (t.status, t.smplen, t.smpch)) =
    some (0x02, 0, 2) := by decide

/-- T22, T23: 24 samples of a Pulse, then 16 of a Space whose `i` restarts at 0. -/
theorem test_assemble : (nextOf (exec .assemble
    { State.reset with seg := [⟨.pulse, 250⟩, ⟨.space, 167⟩], seglen := 2 })).map
      (fun t => (t.smplen, [0, 3, 4, 6, 24, 26, 27].map fun j => readValue (BitVec.ofNat 32 (0x20000000 + j)) t,
        [0, 4, 24, 27].map fun j => readValue (BitVec.ofNat 32 (0x30000000 + j)) t)) =
    some (40, [some 0x00006666, some 0x00006666, some 0xFFFF999A, some 0x00006666, some 0x00000148, some 0x00000148,
      some 0xFFFFFEB8], [some 0xFFFF999A, some 0x00006666, some 0x00000148, some 0xFFFFFEB8]) := by decide +kernel

/-- T20, the row of 1000 Hz. -/
theorem test_generate : (nextOf (exec .generate
    { keyed 0x20 0x10 with cfg := { GenConfig.reset with sampleHz := 1000 } })).map
      (fun t => (t.status, t.seglen, t.smplen, t.smpl.length)) = some (0x02, 68, 69, 69) := by decide +kernel

/-- T29, DUTY = 1001. -/
theorem test_generate_bad_duty : (nextOf (exec .generate (configured { GenConfig.reset with duty := 1001 }))).map
    (fun t => (t.status, t.seglen, t.smplen)) = some (0x26, 0, 0) := by decide

/-- T32, with the row of 1000 Hz of T20. -/
theorem test_genword : (nextOf (exec .genword
    { State.reset with word := 0x20001000, cfg := { GenConfig.reset with sampleHz := 1000 } })).map
      (fun t => (t.addr, t.cmdb, t.smplen, t.word)) = some (0x20, 0x10, 69, 0x20001000) := by decide +kernel

/-- T32, REPEAT = 0. -/
theorem test_genword_no_repeat : (nextOf (exec .genword
    { State.reset with word := 0x20001000, cfg := { GenConfig.reset with rep := 0 } })).map
      (fun t => (t.status, t.addr, t.cmdb)) = some (0x26, 0, 0) := by decide

/-- T43. -/
theorem test_towav_empty : (nextOf (exec .towav { State.reset with smpch := 2 })).map (fun t => (t.wavlen, t.wav)) =
    some (44, [0x52, 0x49, 0x46, 0x46, 0x24, 0x00, 0x00, 0x00, 0x57, 0x41, 0x56, 0x45, 0x66, 0x6D, 0x74, 0x20, 0x10, 0x00,
      0x00, 0x00, 0x01, 0x00, 0x02, 0x00, 0x00, 0xEE, 0x02, 0x00, 0x00, 0xB8, 0x0B, 0x00, 0x04, 0x00, 0x10, 0x00, 0x64,
      0x61, 0x74, 0x61, 0x00, 0x00, 0x00, 0x00]) := by decide +kernel

/-- T40: the bytes of 1 and -1, left before right. -/
theorem test_towav_samples : (nextOf (exec .towav filled)).map (fun t => (t.wavlen, t.wav.drop 44)) =
    some (52, [0xFF, 0x7F, 0x00, 0x80, 0x00, 0x80, 0xFF, 0x7F]) := by decide +kernel

/-! ## The bus -/

/-- T2: the low 8 bits are pushed. -/
theorem test_hexpush : (nextOf (step (about (.write 0x02 0x141)))).map (fun t => (t.hexbuf.get 0, t.hexlen, t.status)) =
    some (0x41, 1, 0) := by decide

/-- T2: the 17th push counts and stores nothing. -/
theorem test_hexpush_full : (State.pushHex 0x42 { State.reset with hexlen := 16 }).hexlen = 17 ∧
    (State.pushHex 0x42 { State.reset with hexlen := 16 }).hexbuf = State.reset.hexbuf ∧
    (State.pushHex 0x42 { State.reset with hexlen := 255 }).hexlen = 255 := by decide

/-- T6: narrow registers. -/
theorem test_narrow_registers : (nextOf (step (about (.write 0x05 0x1256)))).map (readValue 0x05) = some (some 0x56) ∧
    (nextOf (step (about (.write 0x0B 0x1FFFF)))).map (readValue 0x0B) = some (some 0xFFFF) ∧
    (nextOf (step (about (.write 0x0E 0xFFFFFFFF)))).map (readValue 0x0E) = some (some 0x3FFFFFFF) ∧
    (nextOf (step (about (.write 0x0A 7)))).map (readValue 0x0A) = some (some 3) := by decide

/-- T50: an illegal word. -/
theorem test_illegal_word : (nextOf (step (about (.write 0x00 0x109)))).map (fun t => (t.op, t.status, t.seglen)) =
    some (0x109, 0x36, 0) := by decide

/-- A command runs as the first thing after reset. -/
theorem test_first_command : (nextOf (step (State.reset.withFetchWord 32 0x04))).map (fun t => (t.op, t.status, t.word)) =
    some (4, 0x02, 0x00FF00FF) := by decide

/-! ## Witnesses: the hypotheses of the statements can be met -/

theorem witness_DecodeOfEncode : Instr.wellFormed (.render 16777215) = true ∧ Instr.wellFormed .towav = true := by decide

theorem witness_EncodeOfDecode : decode 0xFFFFFF07 = .command (.render 16777215) := by decide

theorem witness_IllegalWords : (about (.write 0x00000000 0x0C)).pending = [.write 0x00000000 0x0C] ∧
    (about (.write 0x00000000 0x0C)).busy = false ∧ (about (.write 0x00000000 0x0C)).params.busyPolls = 0 ∧
    (∃ r, decode 0x0C = .illegal r) ∧ ∃ r, decode 0x109 = .illegal r :=
  ⟨rfl, rfl, rfl, ⟨_, rfl⟩, ⟨_, rfl⟩⟩

theorem witness_TableRows : decode 0x207 = .command (.render 2) ∧
    (0x207 : Word) &&& (Instr.render 2).tableMask = (Instr.render 2).tableMatch ∧
    (0x207 : Word) &&& (Instr.render 5).tableMask = (Instr.render 5).tableMatch := by decide

theorem witness_StepRunsTheCommand : (about (.write 0x00000000 0x04)).pending = [.write 0x00000000 0x04] ∧
    (about (.write 0x00000000 0x04)).busy = false ∧ (about (.write 0x00000000 0x04)).params.busyPolls = 0 ∧
    decode 0x04 = .command .pack := ⟨rfl, rfl, rfl, rfl⟩

/-- Every register clause of ReadReturnsTheEntry, HEXBUF's at both ends. -/
theorem witness_ReadReturns_registers : ∀ a ∈ [0x00, 0x01, 0x02, 0x03, 0x04, 0x05, 0x06, 0x08, 0x09, 0x0A, 0x0B, 0x0C, 0x0D,
      0x0E, 0x0F, 0x10, 0x18, 0x19, 0x1A, 0x1B, 0x20, 0x2F],
    (about (.read a)).pending = [.read a] ∧ (about (.read a)).busy = false := fun _ _ => ⟨rfl, about_busy _⟩

/-- The memory clauses of ReadReturnsTheEntry, each at its last entry. -/
theorem witness_ReadReturns_memories : filled.busy = false ∧ 1 < filled.seglen.toNat ∧ filled.seg[1]? = some ⟨.space, 9000⟩ ∧
    1 < filled.smplen.toNat ∧ 1 ≤ filled.smpch.toNat ∧ filled.smpl[1]? = some (-1 : Rat) ∧ filled.smpch = 2 ∧
    filled.smpr[1]? = some (1 : Rat) ∧ 1 < filled.wavlen.toNat ∧ filled.wav[1]? = some 0x49 := by
  decide +kernel

theorem witness_ReadsAreRepeatable :
    readValue 0x08 { State.reset with pending := [.read 0x08, .read 0x08] } = some 38000 ∧
      ∃ t, step { State.reset with pending := [.read 0x08, .read 0x08] } = .next t := ⟨rfl, _, rfl⟩

theorem witness_WriteStores : ∀ a ∈ [0x04, 0x05, 0x06, 0x08, 0x09, 0x0A, 0x0B, 0x0C, 0x0D, 0x0E, 0x0F, 0x10],
    (about (.write a 0xFFFFFFFF)).pending = [.write a 0xFFFFFFFF] ∧ (about (.write a 0xFFFFFFFF)).busy = false :=
  fun _ _ => ⟨rfl, about_busy _⟩

/-- Every kind of address WriteElsewhere speaks of, at the ends of its ranges. -/
theorem witness_WriteElsewhere : ∀ a ∈ ([0x01, 0x03, 0x07, 0x11, 0x17, 0x18, 0x1B, 0x1C, 0x1F, 0x20, 0x2F, 0x30, 0x0FFFFFFF,
      0x10000000, 0x4FFFFFFF, 0x50000000, 0xFFFFFFFF] : List Word),
    (about (.write a 1)).pending = [.write a 1] ∧ (about (.write a 1)).busy = false ∧
      (a.toNat = 0x01 ∨ a.toNat = 0x03 ∨ a.toNat = 0x07 ∨ 0x11 ≤ a.toNat) := by
  intro a ha
  refine ⟨rfl, about_busy _, ?_⟩
  simp only [List.mem_cons, List.not_mem_nil, or_false] at ha
  rcases ha with rfl | rfl | rfl | rfl | rfl | rfl | rfl | rfl | rfl | rfl | rfl | rfl | rfl | rfl | rfl | rfl | rfl <;> decide

theorem witness_Hexpush : (about (.write 0x02 0x141)).pending = [.write 0x02 0x141] ∧
    (about (.write 0x02 0x141)).busy = false := ⟨rfl, rfl⟩

/-- The three clauses of BusyWindow, with the last poll and with one more. -/
theorem witness_BusyWindow : ((busyState 1 (.read 0x01)).Inv ∧ (busyState 1 (.read 0x01)).busy = true) ∧
    ((busyState 2 (.read 0x01)).Inv ∧ (busyState 2 (.read 0x01)).busy = true) ∧
    ((busyState 1 (.read 0x00)).Inv ∧ (0x00 : Word) ≠ 0x01) ∧ (busyState 1 (.write 0x00 0x00)).Inv :=
  ⟨⟨by decide, by decide⟩, ⟨by decide, by decide⟩, ⟨by decide, by decide⟩, by decide⟩

theorem witness_OnlyCapacity : Memory.wf (about (.write 0x00 0x06)) ∧ (about (.write 0x00 0x06)).busy = false ∧
    decode 0x06 = .command .encrep ∧ ¬ExceedsCapacity .encrep (about (.write 0x00 0x06)) :=
  ⟨by decide, rfl, rfl, by simp only [ExceedsCapacity]; decide⟩

theorem witness_HardwareReset : (busyState 1 .reset).pending = [.reset] := rfl

theorem witness_ValidHex_bare : ValidHex (hexed [0x32, 0x30, 0x44, 0x46, 0x31, 0x30, 0x45, 0x46])
    [0x32, 0x30, 0x44, 0x46, 0x31, 0x30, 0x45, 0x46] := by unfold ValidHex; decide

theorem witness_ValidHex_prefixed : ValidHex (hexed [0x30, 0x78, 0x39, 0x41, 0x46, 0x61, 0x66, 0x30, 0x30, 0x30])
    [0x39, 0x41, 0x46, 0x61, 0x66, 0x30, 0x30, 0x30] := by unfold ValidHex; decide

theorem witness_DecodehexRejects : ¬∃ body, ValidHex State.reset body := by
  rintro ⟨body, -, -, ⟨h, -⟩ | ⟨h, -⟩⟩ <;> exact absurd h (by decide)

theorem witness_PackAndFields : (∃ t u, exec .pack (keyed 0x04 0xF7) = .next t ∧ exec .fields t = .next u) ∧
    ∃ t u, exec .fields (keyed 0x04 0xF7) = .next t ∧ exec .pack t = .next u :=
  ⟨⟨_, _, rfl, rfl⟩, ⟨_, _, rfl, rfl⟩⟩

theorem witness_FrameIsTheNecFrame : ([0x20, 255 - 0x20, 0x10, 255 - 0x10] : List Nat)[0]? = some 0x20 ∧
    ([0x20, 255 - 0x20, 0x10, 255 - 0x10] : List Nat)[3]? = some 0xEF := by decide

theorem witness_Encframe : ((limited 68 0 0 0).cfg.gapUs ≠ 0 ∧ 68 ≤ (limited 68 0 0 0).params.segCap.val) ∧
    (configured { GenConfig.reset with gapUs := 0 }).cfg.gapUs = 0 ∧
    ((limited 67 0 0 0).cfg.gapUs ≠ 0 ∧ (limited 67 0 0 0).params.segCap.val < 68) := by decide

theorem witness_Encrep : ((limited 68 0 0 0).cfg.rep ≠ 0 ∧ (limited 68 0 0 0).cfg.gapUs ≠ 0 ∧
      68 * (limited 68 0 0 0).cfg.rep.toNat ≤ (limited 68 0 0 0).params.segCap.val ∧ 0 < (limited 68 0 0 0).cfg.rep.toNat) ∧
    (configured { GenConfig.reset with rep := 0 }).cfg.rep = 0 ∧
    (configured { GenConfig.reset with gapUs := 0 }).cfg.gapUs = 0 ∧
    (limited 67 0 0 0).params.segCap.val < 68 * (limited 67 0 0 0).cfg.rep.toNat := by decide

theorem witness_EncrepAlternates : State.reset.cfg.rep ≠ 0 ∧ State.reset.cfg.gapUs ≠ 0 ∧
    ∃ t, exec .encrep State.reset = .next t := ⟨by decide, by decide, _, rfl⟩

theorem witness_FloorPerSegment : filled.seg ≠ [] := by decide +kernel

theorem witness_CarrierPhase : GenConfig.reset.sampleHz ≠ 0 ∧
    ({ GenConfig.reset with duty := 1000 } : GenConfig).duty = 1000 ∧
    ({ GenConfig.reset with duty := 0 } : GenConfig).duty = 0 := by decide

theorem witness_SamplesStayInRange : RenderLegal GenConfig.reset ∧
    RenderLegal { GenConfig.reset with mode := 2, amp := 1000, duty := 1000, ampIdle := 1000 } := by decide

theorem witness_Render : RenderLegal filled.cfg ∧ 1 < filled.seglen.toNat ∧ filled.seg[1]? = some ⟨.space, 9000⟩ ∧
    countOf filled.cfg 9000 ≤ filled.params.smpCap.val := by decide +kernel

theorem witness_Assemble : Memory.wf filled ∧ RenderLegal filled.cfg ∧
    startOf filled.cfg filled.seg filled.seg.length ≤ filled.params.smpCap.val := by decide +kernel

/-- The sample buffer exactly full: 20748 samples (T20). -/
theorem witness_Generate : RenderLegal (limited 68 20748 0 0).cfg ∧ (limited 68 20748 0 0).cfg.rep ≠ 0 ∧
    (limited 68 20748 0 0).cfg.gapUs ≠ 0 ∧
    68 * (limited 68 20748 0 0).cfg.rep.toNat ≤ (limited 68 20748 0 0).params.segCap.val ∧
    (limited 68 20748 0 0).cfg.rep.toNat * frameSamples (limited 68 20748 0 0).cfg ≤
      (limited 68 20748 0 0).params.smpCap.val := by decide +kernel

theorem witness_GenerateIsEncrepThenAssemble : ¬FailsCheck .generate State.reset ∧
    (∃ t, exec .encrep State.reset = .next t) ∧ ¬FailsCheck .generate (limited 67 0 0 0) ∧
    ∃ r, exec .encrep (limited 67 0 0 0) = .refused r :=
  ⟨by simp only [FailsCheck]; decide, ⟨_, rfl⟩, by simp only [FailsCheck]; decide, ⟨_, rfl⟩⟩

theorem witness_GenwordIsFieldsThenGenerate : ¬FailsCheck .genword State.reset ∧
    (∃ t, exec .fields State.reset = .next t) ∧ addressField 0x20001000 = addressField 0x20DF10EF ∧
    commandField 0x20001000 = commandField 0x20DF10EF :=
  ⟨by simp only [FailsCheck]; decide, ⟨_, rfl⟩, by decide, by decide⟩

theorem witness_Quantizer : (-1 : Rat) ≤ -1 ∧ (-1 : Rat) < 0 ∧ (0 : Rat) ≤ 0 ∧ (1 : Rat) ≤ 1 ∧ (0 : Rat) ≤ 1 := by
  decide +kernel

/-- TOWAV with the stream exactly full (two stereo frames), and with the highest byte rate of a mono buffer. -/
theorem witness_Towav : (Memory.wf { filled with params := { Params.reference with wavCap := 52 } } ∧
      44 + filled.smplen.toNat * filled.smpch.toNat * 2 ≤ (52 : Fin (capBound + 1)).val ∧ filled.cfg.sampleHz ≠ 0 ∧
      filled.cfg.sampleHz.toNat * 2 * filled.smpch.toNat < 2 ^ 32 ∧ filled.smpch = 2 ∧ filled.smpr[1]? = some (1 : Rat)) ∧
    Memory.wf monoFilled ∧ monoFilled.smpch = 1 ∧ monoFilled.smpl[1]? = some (-1 : Rat) ∧
      (0x7FFFFFFF : Word).toNat * 2 * monoFilled.smpch.toNat < 2 ^ 32 := by decide +kernel

/-- A failed check for every command that makes one: V1 to V7 by RenderLegal, V8, V9, V10, V11. -/
theorem witness_FailedChecks : FailsCheck .encframe (configured { GenConfig.reset with gapUs := 0 }) ∧
    FailsCheck .encrep (configured { GenConfig.reset with rep := 0 }) ∧ FailsCheck (.render 0) State.reset ∧
    FailsCheck .assemble (configured { GenConfig.reset with mode := 3 }) ∧
    FailsCheck .generate (configured { GenConfig.reset with amp := 0 }) ∧
    FailsCheck .genword (configured { GenConfig.reset with comp := 0 }) ∧ FailsCheck .towav State.reset ∧
    Memory.wf State.reset ∧ ¬FailsCheck .pack State.reset ∧ ∃ t, exec .pack State.reset = .next t := by
  refine ⟨?_, ?_, ?_, ?_, ?_, ?_, ?_, ?_, ?_, ⟨_, rfl⟩⟩ <;> first | (simp only [FailsCheck]; decide) | decide

theorem witness_ErrorEnd : ∃ t, exec .decodehex State.reset = .next t ∧ statusErr t.status = true := ⟨_, rfl, by decide⟩

theorem witness_StatusAfterACommand : ∃ t, exec .nop State.reset = .next t := ⟨_, rfl⟩

theorem witness_DoneClears : statusDone { about (.write 0x00 0x00) with status := 0x02 }.status = true ∧
    (∀ rest, (about (.write 0x00 0x00)).pending ≠ .reset :: rest) ∧
    ∃ t, step { about (.write 0x00 0x00) with status := 0x02 } = .next t :=
  ⟨by decide, nofun, _, rfl⟩

/-- Both sides of RefusedExactly are met: SEG_CAP one short, and the byte rate one over. -/
theorem witness_RefusedExactly : Memory.wf (limited 67 0 0 0) ∧ ExceedsCapacity .encframe (limited 67 0 0 0) ∧
    ¬FailsCheck .encframe (limited 67 0 0 0) ∧
    refusalOf (exec .towav { monoFilled with cfg := { GenConfig.reset with sampleHz := 0x80000000 } }) =
      some .byteRateOverflow := by
  refine ⟨by decide, ?_, ?_, by decide +kernel⟩ <;> simp only [FailsCheck, ExceedsCapacity] <;> decide

theorem segShape_of_empty {s : State} (h : s.seg = []) : s.segShape := by
  refine ⟨by rw [h]; rfl, ⟨0, 0, 1, by decide, by decide, ?_⟩, ?_⟩ <;> rw [h] <;> exact nofun

/-- The shape of SEG with a frame in it: the list of T11. -/
theorem witness_WholeFrames : ({ State.reset with seg := frame 0 0 ++ [⟨.space, 80000⟩], seglen := 68 } : State).segShape := by
  refine ⟨by decide, ⟨0, 0, 40000, by decide, by decide, ?_⟩, by decide⟩
  intro r hr
  have hr0 : r = 0 := by
    have : (frame 0 0 ++ [(⟨.space, 80000⟩ : Segment)]).length / 68 = 1 := by decide
    simp only [this] at hr
    omega
  subst hr0
  decide

theorem witness_Invariants : State.reset.Inv ∧ State.reset.segShape ∧ State.reset.wavShape ∧
    (∃ t, step State.reset = .next t) ∧ (about (.write 0x00 0x06)).Inv ∧ ∃ t, step (about (.write 0x00 0x06)) = .next t :=
  ⟨by decide, segShape_of_empty rfl, by decide, ⟨_, rfl⟩, by decide, ⟨_, rfl⟩⟩

/-- The WAV header invariant with a stream in WAV. -/
theorem witness_WavHeader : ({ State.reset with wav := wavHeader 0 2 192000, wavlen := 44 } : State).Inv ∧
    ({ State.reset with wav := wavHeader 0 2 192000, wavlen := 44 } : State).wavShape := by decide +kernel

theorem witness_CommandsWrite : (∃ t, exec .pack State.reset = .next t) ∧ writesAddress .pack 0x05 = false ∧
    writesAddress .pack 0x04 = true ∧ writesSpace .pack .smpl = false := ⟨⟨_, rfl⟩, by decide, by decide, by decide⟩

/-- Two states that differ everywhere but in PACK's sources. -/
theorem witness_Destinations : (keyed 1 2).params = { keyed 1 2 with word := 7, seglen := 3, status := 0x16 }.params ∧
    SameSources .pack (keyed 1 2) { keyed 1 2 with word := 7, seglen := 3, status := 0x16 } ∧
    (∃ t, exec .pack (keyed 1 2) = .next t ∧ t.status = 0x02) ∧ writesAddress .pack 0x04 = true ∧
    writesSpace (.render 0) .smpl = true :=
  ⟨rfl, ⟨rfl, rfl⟩, ⟨_, rfl, rfl⟩, by decide, by decide⟩

theorem witness_ConfigurationChanges : ∃ t, step (about (.write 0x08 5)) = .next t := ⟨_, rfl⟩

end Sys2Proof.Tests
end

/-! # Family 10_state: the state, what a step keeps, what a command reads and writes -/

namespace Sys2Proof.Machine

/-! ## A step that takes a write (20_memory.md R52) -/

theorem step_write_slot {s : State} {a d : Word} {rest : List BusEvent} {r : Slot}
    (hp : s.pending = .write a d :: rest) (hb : s.busy = false) (ha : a.toNat = r.number) (hr : r ≠ .op) :
    step s = .next (writeSlot r d (s.takeEvent rest)) := by
  have hb' : (s.takeEvent rest).busy = false := hb
  simp [step, stepEvent, hp, transact, busWrite, hb', targetSlot_eq_some.2 ha, hr]

theorem step_write_none {s : State} {a d : Word} {rest : List BusEvent}
    (hp : s.pending = .write a d :: rest) (hb : s.busy = false) (ha : targetSlot a = none) :
    step s = .next (s.takeEvent rest) := by
  have hb' : (s.takeEvent rest).busy = false := hb
  simp [step, stepEvent, hp, transact, busWrite, hb', ha]

/-- Settles O9: each address is the number of one writable slot, and `writeSlot` of that slot stores the low bits. -/
theorem writeStoresTheLowBits : Obligations.WriteStoresTheLowBits := by
  intro s a d rest hp hb
  have hstep : ∀ r : Slot, r ≠ .op → a.toNat = r.number → step s = .next (writeSlot r d (s.takeEvent rest)) :=
    fun r hr ha => step_write_slot hp hb ha hr
  simp only [BitVec.ofNat_toNat]
  refine ⟨?_, ?_, ?_, ?_, ?_, ?_, ?_, ?_, ?_, ?_, ?_, ?_⟩ <;> rintro rfl
  · exact hstep .word nofun rfl
  · exact hstep .addr nofun rfl
  · exact hstep .cmdb nofun rfl
  · exact hstep .carrierHz nofun rfl
  · exact hstep .sampleHz nofun rfl
  · exact hstep .mode nofun rfl
  · exact hstep .duty nofun rfl
  · exact hstep .comp nofun rfl
  · exact hstep .rep nofun rfl
  · exact hstep .gapUs nofun rfl
  · exact hstep .amp nofun rfl
  · exact hstep .ampIdle nofun rfl

/-- A register whose number is not a writable one's ignores a write (10_state.md R19, 20_memory.md R52). -/
theorem writeSlot_readOnly {r : Slot} (h : r.number = 0x01 ∨ r.number = 0x03 ∨ r.number = 0x07 ∨ 0x11 ≤ r.number)
    (d : Word) (s : State) : r ≠ .op ∧ writeSlot r d s = s := by
  cases r with
  | status | hexlen | seglen | smplen | smpch | wavlen => exact ⟨nofun, rfl⟩
  | hexbuf i => exact ⟨nofun, rfl⟩
  | op | hexpush | word | addr | cmdb | carrierHz | sampleHz | mode | duty | comp | rep | gapUs | amp | ampIdle =>
    simp [Slot.number] at h

/-- Settles O10: such an address selects no register or one that ignores the write. -/
theorem writeElsewhereChangesNothing : Obligations.WriteElsewhereChangesNothing := by
  intro s a d rest hp hb ha
  cases ht : targetSlot a with
  | none => exact step_write_none hp hb ht
  | some r =>
    have hnum : a.toNat = r.number := targetSlot_eq_some.1 ht
    obtain ⟨hop, hkeep⟩ := writeSlot_readOnly (hnum ▸ ha) d (s.takeEvent rest)
    rw [step_write_slot hp hb hnum hop, hkeep]
    rfl

/-! ## What a register write and a read keep -/

theorem writeSlot_keeps (r : Slot) (d : Word) (s : State) :
    (writeSlot r d s).status = s.status ∧ (writeSlot r d s).params = s.params ∧
      (writeSlot r d s).pollsLeft = s.pollsLeft := by
  cases r <;> exact ⟨rfl, rfl, rfl⟩

/-- A register write changes the configuration at the slots 0x08 to 0x10 alone (10_state.md R14). -/
theorem writeSlot_cfg (r : Slot) (d : Word) (s : State) :
    (writeSlot r d s).cfg = s.cfg ∨ (0x08 ≤ r.number ∧ r.number ≤ 0x10) := by
  cases r with
  | carrierHz | sampleHz | mode | duty | comp | rep | gapUs | amp | ampIdle => exact .inr (by decide)
  | op | status | hexpush | hexlen | word | addr | cmdb | seglen | smplen | smpch | wavlen => exact .inl rfl
  | hexbuf i => exact .inl rfl

/-- A read changes the answer and the draw counter alone (20_memory.md R51). -/
theorem answerRead_eq (a : Word) (s : State) :
    ∃ v n, answerRead a s = { s with reply := v, draws := n } := by
  unfold answerRead
  split <;> exact ⟨_, _, rfl⟩

/-! ## What a command leaves in STATUS -/

/-- STATUS as a command can leave it, before the busy window: idle, DONE, ERR exactly with a code (10_state.md R15). -/
def EndStatus (v : BitVec 6) : Prop :=
  statusBusy v = false ∧ statusDone v = true ∧ v.getLsbD 3 = false ∧ (statusErr v = true ↔ statusErrCode v ≠ 0)

theorem endStatus_normalEnd : EndStatus statusNormalEnd := by
  unfold EndStatus; decide

theorem endStatus_errorEnd (k : ErrorKind) : EndStatus (statusErrorEnd k) := by
  unfold EndStatus; cases k <;> decide

theorem exec_endStatus {i : Instr} {s t : State} (h : exec i s = .next t) : EndStatus t.status := by
  rcases exec_next_cases h with ⟨k, rfl, -⟩ | ⟨u, rfl, -⟩
  · exact endStatus_errorEnd k
  · exact endStatus_normalEnd

/-- A write to OP: some command's or error's end, then the busy window. Nothing in it touches the configuration, the
parameters and the polls left. -/
theorem runCommand_keeps {d : Word} {s t : State} (h : runCommand d s = .next t) :
    ∃ u : State, t = u.openBusyWindow ∧ EndStatus u.status ∧ u.cfg = s.cfg ∧ u.params = s.params ∧
      u.pollsLeft = s.pollsLeft := by
  obtain ⟨u, rfl, hend⟩ := runCommand_next h
  rcases hend with ⟨i, -, hi⟩ | ⟨-, rfl⟩
  · obtain ⟨-, hcfg, hparams, hpolls, -⟩ := exec_keeps hi
    exact ⟨u, rfl, exec_endStatus hi, hcfg, hparams, hpolls⟩
  · exact ⟨_, rfl, endStatus_errorEnd _, rfl, rfl, rfl⟩

theorem openBusyWindow_done (s : State) : statusDone s.openBusyWindow.status = statusDone s.status := by
  rcases openBusyWindow_cases s with ⟨-, h⟩ | ⟨n, -, h⟩ <;> rw [h]
  obtain ⟨-, -, hdone, -⟩ := setBusyBit_fields (decide (0 < n)) s.status
  exact hdone

theorem pollBusy_done (s : State) : statusDone s.pollBusy.status = statusDone s.status := by
  obtain ⟨-, -, hdone, -⟩ := setBusyBit_fields (decide (1 < s.pollsLeft)) s.status
  exact hdone

/-- Settles O49: no event but a reset touches DONE, save the end of a command, which sets it. -/
theorem doneClearsOnlyAtReset : Obligations.DoneClearsOnlyAtReset := by
  intro s t h hdone hnoreset
  rcases step_next_cases h with ⟨-, rfl⟩ | ⟨rest, hp, -⟩ | ⟨a, rest, -, -, rfl⟩ | ⟨a, rest, -, -, -, rfl⟩ |
    ⟨a, d, rest, -, -, -, hrun⟩ | ⟨a, d, rest, r, -, -, -, -, rfl⟩ | ⟨a, d, rest, -, -, -, rfl⟩
  · exact hdone
  · exact absurd hp (hnoreset rest)
  · obtain ⟨v, n, hread⟩ := answerRead_eq a (s.takeEvent rest)
    rw [hread]; exact hdone
  · rw [pollBusy_done]; exact hdone
  · obtain ⟨u, rfl, ⟨-, hu, -⟩, -⟩ := runCommand_keeps hrun
    rw [openBusyWindow_done]; exact hu
  · obtain ⟨hstatus, -⟩ := writeSlot_keeps r d (s.takeEvent rest)
    rw [hstatus]; exact hdone
  · exact hdone

/-- Settles O57: of all events, a register write to slots 0x08 to 0x10 and a reset alone touch the configuration. -/
theorem configurationChangesOnlyByTheHost : Obligations.ConfigurationChangesOnlyByTheHost := by
  intro s t h
  rcases step_next_cases h with ⟨-, rfl⟩ | ⟨rest, hp, rfl⟩ | ⟨a, rest, -, -, rfl⟩ | ⟨a, rest, -, -, -, rfl⟩ |
    ⟨a, d, rest, -, -, -, hrun⟩ | ⟨a, d, rest, r, hp, -, hslot, -, rfl⟩ | ⟨a, d, rest, -, -, -, rfl⟩
  · exact ⟨rfl, .inl rfl⟩
  · exact ⟨rfl, .inr (.inr ⟨rest, hp⟩)⟩
  · obtain ⟨v, n, hread⟩ := answerRead_eq a (s.takeEvent rest)
    rw [hread]; exact ⟨rfl, .inl rfl⟩
  · exact ⟨rfl, .inl rfl⟩
  · obtain ⟨u, rfl, -, hcfg, hparams, -⟩ := runCommand_keeps hrun
    simp [hcfg, hparams]
  · obtain ⟨-, hparams, -⟩ := writeSlot_keeps r d (s.takeEvent rest)
    have hnum : a.toNat = r.number := targetSlot_eq_some.1 hslot
    refine ⟨hparams, (writeSlot_cfg r d (s.takeEvent rest)).imp id fun hr => .inl ⟨a, d, rest, hp, ?_⟩⟩
    rwa [hnum]
  · exact ⟨rfl, .inl rfl⟩

/-! ## The reset state -/

/-- Settles O14: every field at the value of R40's row. -/
theorem resetValues : Obligations.ResetValues := by
  have hbuf : ∀ i : Fin 16, State.reset.hexbuf.get i = 0 := by decide
  exact ⟨rfl, rfl, rfl, rfl, hbuf, rfl, rfl, rfl, rfl, rfl, rfl, rfl, rfl, rfl, rfl, rfl, rfl, rfl, rfl, rfl, rfl, rfl,
    rfl, rfl, rfl⟩

theorem hardReset_inv (s : State) : s.hardReset.Inv := by
  have hhex : HexBuffer.wf State.reset := by decide
  have hstatus : StatusRegister.wf State.reset := by decide
  have hidle : State.reset.busy = true ↔ 0 < State.reset.pollsLeft := by decide
  exact ⟨hardReset_memory_wf s, hhex, hstatus, hidle, Nat.zero_le _⟩

/-- Settles O51: a reset leaves the invariant, and the reset state is one reset on; SEG and WAV are empty. -/
theorem resetMeetsTheInvariant : Obligations.ResetMeetsTheInvariant := by
  refine ⟨hardReset_inv State.reset, ⟨rfl, ⟨0, 0, 1, by decide, by decide, ?_⟩, ?_⟩, .inl rfl⟩
  · exact fun r hr => absurd hr (Nat.not_lt_zero r)
  · exact fun j hj => absurd hj (Nat.not_lt_zero j)

/-! ## Durations of the NEC list (10_state.md R30) -/

/-- A duration SEG can hold. -/
def Segment.InRange (g : Segment) : Prop := 1 ≤ g.ticks ∧ g.ticks < 2 ^ 31

theorem bitSpace_inRange (v : Bool) : (bitSpace v).InRange := by
  unfold Segment.InRange; cases v <;> decide

theorem byteSegments_inRange {v : Byte} {g : Segment} (hg : g ∈ byteSegments v) : g.InRange := by
  simp only [byteSegments, List.mem_flatMap, List.mem_cons, List.not_mem_nil, or_false] at hg
  obtain ⟨b, -, rfl | rfl⟩ := hg
  · exact ⟨by decide, by decide⟩
  · exact bitSpace_inRange _

theorem frame_inRange {a c : Byte} {g : Segment} (hg : g ∈ frame a c) : g.InRange := by
  simp only [frame, List.mem_append, List.mem_cons, List.not_mem_nil, or_false, List.mem_flatMap] at hg
  obtain ((rfl | rfl) | ⟨v, -, hv⟩) | rfl := hg
  · exact ⟨by decide, by decide⟩
  · exact ⟨by decide, by decide⟩
  · exact byteSegments_inRange hv
  · exact ⟨by decide, by decide⟩

theorem toNat_pos_of_ne_zero {w : Nat} {v : BitVec w} (h : v ≠ 0) : 0 < v.toNat :=
  Nat.pos_of_ne_zero fun h0 => h (BitVec.eq_of_toNat_eq (by simpa using h0))

theorem gapSegment_inRange {cfg : GenConfig} (h : cfg.gapUs ≠ 0) : (gapSegment cfg).InRange := by
  have hpos := toNat_pos_of_ne_zero h
  have hlt := cfg.gapUs.isLt
  simp only [Segment.InRange, gapSegment]
  omega

theorem gappedFrame_inRange {a c : Byte} {cfg : GenConfig} (h : cfg.gapUs ≠ 0) :
    ∀ g ∈ frame a c ++ [gapSegment cfg], g.InRange := by
  intro g hg
  rcases List.mem_append.1 hg with hf | hgap
  · exact frame_inRange hf
  · rw [List.mem_singleton.1 hgap]; exact gapSegment_inRange h

theorem repeatedFrames_inRange {a c : Byte} {cfg : GenConfig} {rep : Nat} (hrep : 0 < rep) (h : cfg.gapUs ≠ 0) :
    ∀ g ∈ repeatedFrames a c (gapSegment cfg) rep, g.InRange := by
  intro g hg
  rw [repeatedFrames_eq a c _ hrep] at hg
  obtain ⟨l, hl, hgl⟩ := List.mem_flatten.1 hg
  rw [List.eq_of_mem_replicate hl] at hgl
  exact gappedFrame_inRange h g hgl

/-! ## Range of the samples (42_carrier_synth.md R158) -/

theorem perMille_range {v : BitVec 16} (h : v.toNat ≤ 1000) : 0 ≤ perMille v ∧ perMille v ≤ 1 := by
  have h' : (v.toNat : Rat) ≤ 1000 := by exact_mod_cast h
  have h0 : (0 : Rat) ≤ v.toNat := Nat.cast_nonneg _
  unfold perMille
  constructor <;> linarith

theorem rightSample_range {cfg : GenConfig} (h : RenderLegal cfg) (k : SegKind) (i : Nat) :
    -1 ≤ rightSample k cfg i ∧ rightSample k cfg i ≤ 1 := by
  obtain ⟨-, -, -, -, ⟨-, hamp⟩, hidle, -⟩ := h
  obtain ⟨ha0, ha1⟩ := perMille_range hamp
  obtain ⟨hi0, hi1⟩ := perMille_range hidle
  cases k <;> simp only [rightSample, amplitude, idleAmplitude] <;> split <;> constructor <;> linarith

/-- A sine sample lies in [0, A]. -/
theorem sineSample_range {a x : Rat} (ha : 0 ≤ a) (hx : -1 ≤ x ∧ x ≤ 1) :
    0 ≤ a * (1 + x) / 2 ∧ a * (1 + x) / 2 ≤ a := by
  obtain ⟨hlo, hhi⟩ := hx
  constructor <;> nlinarith

theorem leftSample_range {cfg : GenConfig} (h : RenderLegal cfg) (m : Modulation) (k : SegKind) (i : Nat) :
    -1 ≤ leftSample m k cfg i ∧ leftSample m k cfg i ≤ 1 := by
  obtain ⟨-, -, -, -, ⟨-, hamp⟩, hidle, -⟩ := h
  obtain ⟨ha0, ha1⟩ := perMille_range hamp
  obtain ⟨hi0, hi1⟩ := perMille_range hidle
  have hzero : (-1 : Rat) ≤ 0 ∧ (0 : Rat) ≤ 1 := by norm_num
  cases m with
  | stereoDiff =>
    cases k <;> simp only [leftSample, amplitude, idleAmplitude] <;> split <;> constructor <;> linarith
  | monoSquare =>
    cases k with
    | space => exact hzero
    | pulse => simp only [leftSample, amplitude]; split <;> constructor <;> linarith
  | monoSine =>
    cases k with
    | space => exact hzero
    | pulse =>
      obtain ⟨hlo, hhi⟩ := sineSample_range ha0 (sine_range ((phaseNum cfg i : Rat) / (cfg.sampleHz.toNat : Rat)))
      simp only [leftSample, amplitude]
      constructor <;> linarith

theorem mem_renderLeft_range {cfg : GenConfig} (h : RenderLegal cfg) {m : Modulation} {segs : List Segment} :
    ∀ x ∈ segs.flatMap (renderLeft m cfg), -1 ≤ x ∧ x ≤ 1 := by
  intro x hx
  obtain ⟨g, -, hx⟩ := List.mem_flatMap.1 hx
  obtain ⟨i, -, rfl⟩ := List.mem_map.1 hx
  exact leftSample_range h m g.kind i

theorem mem_renderRight_range {cfg : GenConfig} (h : RenderLegal cfg) {m : Modulation} {segs : List Segment} :
    ∀ x ∈ segs.flatMap (renderRight m cfg), -1 ≤ x ∧ x ≤ 1 := by
  intro x hx
  obtain ⟨g, -, hx⟩ := List.mem_flatMap.1 hx
  cases m with
  | stereoDiff =>
    obtain ⟨i, -, rfl⟩ := List.mem_map.1 hx
    exact rightSample_range h g.kind i
  | monoSquare => cases hx
  | monoSine => cases hx

theorem renderRight_length (m : Modulation) (cfg : GenConfig) (g : Segment) :
    (renderRight m cfg g).length = if channelCount m = 2 then (renderLeft m cfg g).length else 0 := by
  cases m <;> simp [renderRight, renderLeft, channelCount]

theorem flatMap_renderRight_length (m : Modulation) (cfg : GenConfig) (segs : List Segment) :
    (segs.flatMap (renderRight m cfg)).length =
      if channelCount m = 2 then (segs.flatMap (renderLeft m cfg)).length else 0 := by
  simp only [List.length_flatMap, renderRight_length]
  split <;> simp

theorem channelCount_cases (m : Modulation) : channelCount m = 1 ∨ channelCount m = 2 := by
  cases m with
  | stereoDiff => exact .inr rfl
  | monoSquare => exact .inl rfl
  | monoSine => exact .inl rfl

/-! ## Every command keeps the memories and HEXBUF -/

theorem renderWrites_wf {m : Modulation} {segs : List Segment} {s u : State} (hs : Memory.wf s)
    (hstyle : renderStyle s.cfg = some m) (hw : RenderWrites m segs s u) : Memory.wf u := by
  obtain ⟨hcap, l, r, rfl, rfl, rfl⟩ := hw
  obtain ⟨hlegal, -⟩ := renderStyle_eq_some.1 hstyle
  exact setBuffer_wf hs (channelCount_cases m) (by rwa [flatMap_renderLeft_length])
    (flatMap_renderRight_length m s.cfg segs) (mem_renderLeft_range hlegal) (mem_renderRight_range hlegal)

theorem setRepeatedFrames_wf {s : State} (hs : Memory.wf s) (hrep : s.cfg.rep ≠ 0) (hgap : s.cfg.gapUs ≠ 0)
    (hcap : 68 * s.cfg.rep.toNat ≤ s.params.segCap.val) :
    Memory.wf (s.setSeg (repeatedFrames s.addr s.cmdb (gapSegment s.cfg) s.cfg.rep.toNat)) := by
  have hpos := toNat_pos_of_ne_zero hrep
  exact setSeg_wf hs (by rwa [repeatedFrames_length _ _ _ hpos]) (repeatedFrames_inRange hpos hgap)

theorem generateWrites_wf {m : Modulation} {s u : State} (hs : Memory.wf s) (hstyle : renderStyle s.cfg = some m)
    (hrep : s.cfg.rep ≠ 0) (hgap : s.cfg.gapUs ≠ 0) (hw : GenerateWrites m s u) : Memory.wf u := by
  obtain ⟨hcap, segs, rfl, hw⟩ := hw
  exact renderWrites_wf (setRepeatedFrames_wf hs hrep hgap hcap) hstyle hw

theorem commandWrites_memory_wf {i : Instr} {s u : State} (hs : Memory.wf s) (hw : CommandWrites i s u) :
    Memory.wf u := by
  cases i with
  | nop => cases hw; exact hs
  | hexclr => cases hw; exact hs
  | decodehex => obtain ⟨w, -, rfl⟩ := hw; exact hs
  | fields => cases hw; exact hs
  | pack => cases hw; exact hs
  | encframe =>
    obtain ⟨hgap, hcap, segs, rfl, rfl⟩ := hw
    exact setSeg_wf hs (by simpa [frame_length] using hcap) (gappedFrame_inRange hgap)
  | encrep =>
    obtain ⟨hrep, hgap, hcap, segs, rfl, rfl⟩ := hw
    exact setRepeatedFrames_wf hs hrep hgap hcap
  | render idx => obtain ⟨m, g, hstyle, -, hw⟩ := hw; exact renderWrites_wf hs hstyle hw
  | assemble => obtain ⟨m, hstyle, hw⟩ := hw; exact renderWrites_wf hs hstyle hw
  | generate => obtain ⟨m, hstyle, hrep, hgap, hw⟩ := hw; exact generateWrites_wf hs hstyle hrep hgap hw
  | genword =>
    obtain ⟨m, hstyle, hrep, hgap, hw⟩ := hw
    have hs' : Memory.wf (s.setAddrCmdb (addressField s.word) (commandField s.word)) := hs
    exact generateWrites_wf hs' hstyle hrep hgap hw
  | towav =>
    obtain ⟨hch, -, hcap, -, out, rfl, rfl⟩ := hw
    exact setWav_wf hs (by rwa [List.length_append, wavHeader_length, pcmData_length hs hch])

/-- The hex string buffer after a command: emptied by HEXCLR, else as it was (10_state.md R34). -/
theorem commandWrites_hexBuffer_wf {i : Instr} {s u : State} (hs : HexBuffer.wf s) (hw : CommandWrites i s u) :
    HexBuffer.wf u := by
  cases i with
  | nop => cases hw; exact hs
  | hexclr =>
    cases hw
    intro k _
    simp [Vector.get_eq_getElem]
  | decodehex => obtain ⟨w, -, rfl⟩ := hw; exact hs
  | fields => cases hw; exact hs
  | pack => cases hw; exact hs
  | encframe => obtain ⟨-, -, segs, -, rfl⟩ := hw; exact hs
  | encrep => obtain ⟨-, -, -, segs, -, rfl⟩ := hw; exact hs
  | render idx => obtain ⟨m, g, -, -, -, l, r, -, -, rfl⟩ := hw; exact hs
  | assemble => obtain ⟨m, -, -, l, r, -, -, rfl⟩ := hw; exact hs
  | generate => obtain ⟨m, -, -, -, -, segs, -, -, l, r, -, -, rfl⟩ := hw; exact hs
  | genword => obtain ⟨m, -, -, -, -, segs, -, -, l, r, -, -, rfl⟩ := hw; exact hs
  | towav => obtain ⟨-, -, -, -, out, -, rfl⟩ := hw; exact hs

theorem exec_wf {i : Instr} {s t : State} (hmem : Memory.wf s) (hhex : HexBuffer.wf s) (h : exec i s = .next t) :
    Memory.wf t ∧ HexBuffer.wf t := by
  rcases exec_next_cases h with ⟨k, rfl, -⟩ | ⟨u, rfl, hw⟩
  · exact ⟨hmem, hhex⟩
  · have hu : HexBuffer.wf u := commandWrites_hexBuffer_wf hhex hw
    exact ⟨setStatus_wf _ (commandWrites_memory_wf hmem hw), hu⟩

/-! ## Every event keeps the invariant -/

theorem pushHex_hexBuffer_wf {s : State} (h : HexBuffer.wf s) (c : Byte) : HexBuffer.wf (s.pushHex c) := by
  intro i hi
  have hgrows : i.val ≠ s.hexlen.toNat ∧ s.hexlen.toNat ≤ i.val := by
    rw [State.pushHex_hexlen] at hi
    split at hi
    · rw [BitVec.toNat_add_of_lt (by simp; omega)] at hi
      simp at hi; omega
    · omega
  rw [State.pushHex_hexbuf, Vector.get_eq_getElem, Vector.getElem_setIfInBounds_ne _ hgrows.1.symm]
  exact h i hgrows.2

theorem writeSlot_inv {s : State} (h : s.Inv) (r : Slot) (d : Word) : (writeSlot r d s).Inv := by
  obtain ⟨hmem, hhex, hstatus, hbusy⟩ := h
  cases r with
  | hexpush => exact ⟨hmem, pushHex_hexBuffer_wf hhex _, hstatus, hbusy⟩
  | _ => exact ⟨hmem, hhex, hstatus, hbusy⟩

theorem answerRead_inv {s : State} (h : s.Inv) (a : Word) : (answerRead a s).Inv := by
  obtain ⟨v, n, hread⟩ := answerRead_eq a s
  rw [hread]; exact h

/-- The bit BUSY set or cleared keeps STATUS consistent after a command. -/
theorem setBusyBit_wf {s : State} {b : Bool} {v : BitVec 6} (hs : s.status = setBusyBit b v)
    (herr : statusErr v = true ↔ statusErrCode v ≠ 0) (hdone : statusDone v = true) : StatusRegister.wf s := by
  obtain ⟨hcode, he, hd, hb, h3⟩ := setBusyBit_fields b v
  unfold StatusRegister.wf
  rw [hs, he, hcode, hd]
  exact ⟨h3, herr, fun _ => hdone, fun _ => hdone⟩

theorem pollBusy_inv {s : State} (h : s.Inv) (hb : s.busy = true) : s.pollBusy.Inv := by
  obtain ⟨hmem, hhex, ⟨-, herr, -, hdone⟩, hwin, hmax⟩ := h
  obtain ⟨-, -, -, hbit, -⟩ := setBusyBit_fields (decide (1 < s.pollsLeft)) s.status
  have hpos : 0 < s.pollsLeft := hwin.1 hb
  refine ⟨hmem, hhex, setBusyBit_wf rfl herr (hdone hb), ?_, ?_⟩
  · change statusBusy (setBusyBit _ s.status) = true ↔ 0 < s.pollsLeft - 1
    rw [hbit, decide_eq_true_iff]; omega
  · exact (Nat.sub_le _ _).trans hmax

/-- The window opened at the end of a command: BUSY is 1 exactly when polls were drawn (20_memory.md R64, log entry 6). -/
theorem openBusyWindow_inv {s : State} (hmem : Memory.wf s) (hhex : HexBuffer.wf s) (hend : EndStatus s.status)
    (hpolls : s.pollsLeft = 0) : s.openBusyWindow.Inv := by
  obtain ⟨hbusy, hdone, h3, herr⟩ := hend
  rcases openBusyWindow_cases s with ⟨-, h⟩ | ⟨n, hn, h⟩ <;> rw [h]
  · refine ⟨hmem, hhex, ⟨h3, herr, fun _ => hdone, fun _ => hdone⟩, ?_, ?_⟩
    · change statusBusy s.status = true ↔ 0 < s.pollsLeft
      rw [hbusy, hpolls]; decide
    · rw [hpolls]; exact Nat.zero_le _
  · obtain ⟨-, -, -, hbit, -⟩ := setBusyBit_fields (decide (0 < n)) s.status
    refine ⟨hmem, hhex, setBusyBit_wf rfl herr hdone, ?_, hn⟩
    change statusBusy (setBusyBit _ s.status) = true ↔ 0 < n
    rw [hbit, decide_eq_true_iff]

theorem runCommand_inv {d : Word} {s t : State} (h : s.Inv) (hb : s.busy = false) (hrun : runCommand d s = .next t) :
    t.Inv := by
  obtain ⟨hmem, hhex, -, hwin, -⟩ := h
  have hpolls : s.pollsLeft = 0 := by
    rw [hb] at hwin; simpa using hwin
  obtain ⟨u, rfl, hend⟩ := runCommand_next hrun
  rcases hend with ⟨i, -, hi⟩ | ⟨-, rfl⟩
  · obtain ⟨humem, huhex⟩ := exec_wf (s := s.setOp d) hmem hhex hi
    obtain ⟨-, -, -, hkeep, -⟩ := exec_keeps hi
    exact openBusyWindow_inv humem huhex (exec_endStatus hi) (hkeep.trans hpolls)
  · exact openBusyWindow_inv hmem hhex (endStatus_errorEnd _) hpolls

/-- Settles O52: each kind of event keeps the invariant, by the lemma of that event. -/
theorem everyStepKeepsTheInvariant : Obligations.EveryStepKeepsTheInvariant := by
  intro s t hs h
  have htake : ∀ rest, (s.takeEvent rest).Inv := fun _ => hs
  rcases step_next_cases h with ⟨-, rfl⟩ | ⟨rest, -, rfl⟩ | ⟨a, rest, -, -, rfl⟩ | ⟨a, rest, -, hb, -, rfl⟩ |
    ⟨a, d, rest, -, hb, -, hrun⟩ | ⟨a, d, rest, r, -, -, -, -, rfl⟩ | ⟨a, d, rest, -, -, -, rfl⟩
  · exact hs
  · exact hardReset_inv _
  · exact answerRead_inv (htake rest) a
  · exact pollBusy_inv (htake rest) hb
  · exact runCommand_inv (htake rest) hb hrun
  · exact writeSlot_inv (htake rest) r d
  · exact htake rest

/-! ## What a bus address reads, and what a command may write (10_state.md R34) -/

/-- The destinations of commands, each with all that is written together with it (the column "writes" of R34). -/
inductive Destination where
  | hexBuffer
  | word
  | addrCmdb
  | segments
  | samples
  | wav

/-- The register whose place in a command's row stands for the destination. -/
def Destination.slot : Destination → Slot
  | .hexBuffer => .hexlen
  | .word => .word
  | .addrCmdb => .addr
  | .segments => .seglen
  | .samples => .smplen
  | .wav => .wavlen

/-- Two states hold the same in a destination. -/
def Destination.Same (g : Destination) (s t : State) : Prop :=
  match g with
  | .hexBuffer => (t.hexlen, t.hexbuf) = (s.hexlen, s.hexbuf)
  | .word => t.word = s.word
  | .addrCmdb => (t.addr, t.cmdb) = (s.addr, s.cmdb)
  | .segments => (t.seg, t.seglen) = (s.seg, s.seglen)
  | .samples => (t.smpl, t.smpr, t.smplen, t.smpch) = (s.smpl, s.smpr, s.smplen, s.smpch)
  | .wav => (t.wav, t.wavlen) = (s.wav, s.wavlen)

/-- A command lists all of a destination or nothing of it. -/
theorem writes_whole_destination (i : Instr) :
    (∀ k, writesSlot i (.hexbuf k) = writesSlot i .hexlen) ∧ writesSlot i .cmdb = writesSlot i .addr ∧
      writesSlot i .smpch = writesSlot i .smplen ∧ writesSpace i .seg = writesSlot i .seglen ∧
      writesSpace i .smpl = writesSlot i .smplen ∧ writesSpace i .smpr = writesSlot i .smplen ∧
      writesSpace i .wav = writesSlot i .wavlen := by
  cases i <;> exact ⟨fun _ => rfl, rfl, rfl, rfl, rfl, rfl, rfl⟩

/-- No command lists OP, HEXPUSH or a configuration register. -/
theorem writesSlot_eq_false (i : Instr) {r : Slot}
    (h : r.number = 0x00 ∨ r.number = 0x02 ∨ 0x08 ≤ r.number ∧ r.number ≤ 0x10) : writesSlot i r = false := by
  cases r with
  | op | hexpush | carrierHz | sampleHz | mode | duty | comp | rep | gapUs | amp | ampIdle => cases i <;> rfl
  | status | hexlen | word | addr | cmdb | seglen | smplen | smpch | wavlen => simp [Slot.number] at h
  | hexbuf k => simp only [Slot.number] at h; omega

/-- Two states agree on the destinations a command lists (`listed = true`), or on all it does not list: STATUS is always
listed, OP and the configuration never. -/
structure AgreeWhere (listed : Bool) (i : Instr) (s t : State) : Prop where
  status : listed = true → t.status = s.status
  host : listed = false → t.op = s.op ∧ t.cfg = s.cfg
  same : ∀ g : Destination, writesSlot i g.slot = listed → g.Same s t

section AgreeWhere

variable {listed : Bool} {i : Instr} {s t : State}

theorem slotValue_of_agreeWhere (h : AgreeWhere listed i s t) {r : Slot} (hr : writesSlot i r = listed) :
    slotValue r t = slotValue r s := by
  obtain ⟨hexbufRow, cmdbRow, smpchRow, -⟩ := writes_whole_destination i
  have hhex := h.same .hexBuffer
  have hword := h.same .word
  have haddr := h.same .addrCmdb
  have hseg := h.same .segments
  have hbuf := h.same .samples
  have hwav := h.same .wav
  simp only [Destination.slot, Destination.Same, Prod.mk.injEq] at hhex hword haddr hseg hbuf hwav
  cases r with
  | status =>
    have hlisted : writesSlot i .status = true := by cases i <;> rfl
    simp [slotValue, h.status (hr ▸ hlisted)]
  | hexlen => simp [slotValue, hhex hr]
  | hexbuf k => simp [slotValue, hhex (hexbufRow k ▸ hr)]
  | word => simp [slotValue, hword hr]
  | addr => simp [slotValue, haddr hr]
  | cmdb => simp [slotValue, haddr (cmdbRow ▸ hr)]
  | seglen => simp [slotValue, hseg hr]
  | smplen => simp [slotValue, hbuf hr]
  | smpch => simp [slotValue, hbuf (smpchRow ▸ hr)]
  | wavlen => simp [slotValue, hwav hr]
  | op | hexpush | carrierHz | sampleHz | mode | duty | comp | rep | gapUs | amp | ampIdle =>
    simp [slotValue, h.host (hr ▸ writesSlot_eq_false i (by decide))]

theorem sampleBuffer_of_agreeWhere (h : AgreeWhere listed i s t) (hbuf : writesSlot i .smplen = listed) :
    t.smpl = s.smpl ∧ t.smpr = s.smpr ∧ t.smplen = s.smplen ∧ t.smpch = s.smpch := by
  simpa only [Destination.Same, Prod.mk.injEq] using h.same .samples hbuf

/-- The exact samples are listed with the SMPL space. -/
theorem samples_of_agreeWhere (h : AgreeWhere listed i s t) (hsmpl : writesSpace i .smpl = listed) :
    t.smpl = s.smpl ∧ t.smpr = s.smpr := by
  obtain ⟨-, -, -, -, smplRow, -⟩ := writes_whole_destination i
  obtain ⟨hl, hr, -⟩ := sampleBuffer_of_agreeWhere h (smplRow ▸ hsmpl)
  exact ⟨hl, hr⟩

/-- A bus address reads one register or one memory, listed or not as the address is. -/
theorem readValue_of_agreeWhere (h : AgreeWhere listed i s t) {a : Word} (ha : writesAddress i a = listed) :
    readValue a t = readValue a s := by
  obtain ⟨-, -, -, segRow, smplRow, smprRow, wavRow⟩ := writes_whole_destination i
  unfold writesAddress at ha
  unfold readValue
  cases hsp : spaceOf a with
  | none => rfl
  | some sp =>
    rw [hsp] at ha
    cases sp with
    | reg =>
      cases hr : slotOf (indexOf a) with
      | none => rfl
      | some r =>
        rw [hr] at ha
        exact congrArg some (slotValue_of_agreeWhere h ha)
    | seg =>
      obtain ⟨hseg, hlen⟩ := Prod.mk.inj (h.same .segments (segRow ▸ ha))
      simp only [State.validSegs, hseg, hlen]
    | smpl =>
      obtain ⟨hl, -, hlen, hch⟩ := sampleBuffer_of_agreeWhere h (smplRow ▸ ha)
      simp only [State.validLeft, hl, hlen, hch]
    | smpr =>
      obtain ⟨-, hr, hlen, hch⟩ := sampleBuffer_of_agreeWhere h (smprRow ▸ ha)
      simp only [State.validRight, hr, hlen, hch]
    | wav =>
      obtain ⟨hwav, hlen⟩ := Prod.mk.inj (h.same .wav (wavRow ▸ ha))
      simp only [State.validWav, hwav, hlen]

end AgreeWhere

/-! ## One run: the destinations a command does not list stay -/

theorem Destination.same_refl (g : Destination) (s : State) : g.Same s s := by cases g <;> rfl

/-- A destination the command does not list is not among what it writes before its end. -/
theorem commandWrites_same {i : Instr} {s u : State} (hw : CommandWrites i s u) {g : Destination}
    (hg : writesSlot i g.slot = false) : g.Same s u := by
  cases i with
  | nop =>
    cases hw
    exact g.same_refl s
  | hexclr =>
    cases hw
    cases g with
    | hexBuffer => cases hg
    | _ => rfl
  | decodehex =>
    obtain ⟨w, -, rfl⟩ := hw
    cases g with
    | word => cases hg
    | _ => rfl
  | fields =>
    cases hw
    cases g with
    | addrCmdb => cases hg
    | _ => rfl
  | pack =>
    cases hw
    cases g with
    | word => cases hg
    | _ => rfl
  | encframe =>
    obtain ⟨-, -, segs, -, rfl⟩ := hw
    cases g with
    | segments => cases hg
    | _ => rfl
  | encrep =>
    obtain ⟨-, -, -, segs, -, rfl⟩ := hw
    cases g with
    | segments => cases hg
    | _ => rfl
  | render idx =>
    obtain ⟨m, x, -, -, -, l, r, -, -, rfl⟩ := hw
    cases g with
    | samples => cases hg
    | _ => rfl
  | assemble =>
    obtain ⟨m, -, -, l, r, -, -, rfl⟩ := hw
    cases g with
    | samples => cases hg
    | _ => rfl
  | generate =>
    obtain ⟨m, -, -, -, -, segs, -, -, l, r, -, -, rfl⟩ := hw
    cases g with
    | segments | samples => cases hg
    | _ => rfl
  | genword =>
    obtain ⟨m, -, -, -, -, segs, -, -, l, r, -, -, rfl⟩ := hw
    cases g with
    | addrCmdb | segments | samples => cases hg
    | _ => rfl
  | towav =>
    obtain ⟨-, -, -, -, out, -, rfl⟩ := hw
    cases g with
    | wav => cases hg
    | _ => rfl

/-- A command leaves everything its row of R34 does not list. -/
theorem exec_unlisted {i : Instr} {s t : State} (h : exec i s = .next t) : AgreeWhere false i s t := by
  obtain ⟨hop, hcfg, -⟩ := exec_keeps h
  refine ⟨nofun, fun _ => ⟨hop, hcfg⟩, fun g hg => ?_⟩
  rcases exec_next_cases h with ⟨k, rfl, -⟩ | ⟨u, rfl, hw⟩
  · exact g.same_refl s
  · exact commandWrites_same hw hg

/-- Settles O55: a command leaves every unlisted register and memory, and an address reads those alone. -/
theorem commandsWriteTheirDestinations : Obligations.CommandsWriteTheirDestinations := by
  intro i s t h
  have hun := exec_unlisted h
  obtain ⟨hop, hcfg, hparams, -, hdraws, hpending, -⟩ := exec_keeps h
  exact ⟨fun a ha => readValue_of_agreeWhere hun ha, hcfg, hop, samples_of_agreeWhere hun, hparams, hpending, hdraws⟩

/-! ## Two runs of one command (10_state.md R34, spec R3) -/

/-- Two results of one command are the same as far as R34 speaks of them: the same STATUS and, after a normal end, the
same destinations; or the same refusal. -/
def SameOutcome (i : Instr) : Result → Result → Prop
  | .next s', .next t' => t'.status = s'.status ∧ (s'.status = 0x02 → AgreeWhere true i s' t')
  | .refused r, .refused r' => r' = r
  | _, _ => False

/-- Two configurations differ at most in REPEAT and GAP_US, which no rendering reads. -/
def SameRenderConfig (c d : GenConfig) : Prop := ∃ rep gapUs, d = { c with rep := rep, gapUs := gapUs }

section TwoRuns

variable {i : Instr} {s t : State}

theorem sameOutcome_raise (k : ErrorKind) : SameOutcome i (raise k s) (raise k t) := by
  have hk : statusErrorEnd k ≠ 0x02 := by cases k <;> decide
  exact ⟨rfl, fun h => absurd h hk⟩

theorem sameOutcome_normalEnd (h : ∀ g : Destination, writesSlot i g.slot = true → g.Same s t) :
    SameOutcome i (normalEnd s) (normalEnd t) :=
  ⟨rfl, fun _ => ⟨fun _ => rfl, nofun, h⟩⟩

theorem sameOutcome_refuse (r : Refusal) : SameOutcome i (refuse r) (refuse r) := rfl

theorem sameRenderConfig_of_sources (h : SameRenderSources s t) : SameRenderConfig s.cfg t.cfg := by
  obtain ⟨-, -, hc, hs, hm, hd, hcomp, ha, hi⟩ := h
  exact ⟨t.cfg.rep, t.cfg.gapUs, by rw [hc, hs, hm, hd, hcomp, ha, hi]⟩

theorem validSegs_of_sources (h : SameRenderSources s t) : t.validSegs = s.validSegs := by
  obtain ⟨hseg, hlen, -⟩ := h
  rw [State.validSegs, State.validSegs, hseg, hlen]

theorem renderStyle_of_sameConfig {c d : GenConfig} (h : SameRenderConfig c d) : renderStyle d = renderStyle c := by
  obtain ⟨rep, gapUs, rfl⟩ := h; rfl

/-- A rendering reads the parameters and the render configuration alone. -/
theorem sameOutcome_renderInto {m : Modulation} {segs : List Segment} (hparams : s.params = t.params)
    (hcfg : SameRenderConfig s.cfg t.cfg)
    (hdest : ∀ ch l r (g : Destination), writesSlot i g.slot = true →
      g.Same (s.setBuffer ch l r) (t.setBuffer ch l r)) :
    SameOutcome i (renderInto m segs s) (renderInto m segs t) := by
  obtain ⟨rep, gapUs, hcfg⟩ := hcfg
  have htotal : totalSamples t.cfg segs = totalSamples s.cfg segs := by rw [hcfg]; rfl
  have hleft : renderLeft m t.cfg = renderLeft m s.cfg := by rw [hcfg]; rfl
  have hright : renderRight m t.cfg = renderRight m s.cfg := by rw [hcfg]; rfl
  unfold renderInto
  rw [htotal, hleft, hright, ← hparams]
  split_ifs
  · exact sameOutcome_refuse _
  · exact sameOutcome_normalEnd (hdest _ _ _)

/-- GENERATE's body reads the parameters, ADDR, CMDB and the configuration alone. -/
theorem sameOutcome_generateInto {m : Modulation} (hparams : s.params = t.params) (haddr : s.addr = t.addr)
    (hcmdb : s.cmdb = t.cmdb) (hcfg : s.cfg = t.cfg)
    (hdest : ∀ segs ch l r (g : Destination), writesSlot i g.slot = true →
      g.Same ((s.setSeg segs).setBuffer ch l r) ((t.setSeg segs).setBuffer ch l r)) :
    SameOutcome i (generateInto m s) (generateInto m t) := by
  unfold generateInto
  rw [← hparams, ← haddr, ← hcmdb, ← hcfg]
  split_ifs
  · exact sameOutcome_refuse _
  · exact sameOutcome_renderInto hparams ⟨_, _, hcfg.symm⟩ (hdest _)

/-- Two runs of a command from the same sources and parameters have the same outcome, command by command. -/
theorem exec_sameOutcome (hparams : s.params = t.params) (hsrc : SameSources i s t) :
    SameOutcome i (exec i s) (exec i t) := by
  cases i with
  | nop =>
    exact sameOutcome_normalEnd fun g hg => by cases g <;> cases hg
  | hexclr =>
    exact sameOutcome_normalEnd fun g hg => by
      cases g with
      | hexBuffer => rfl
      | _ => cases hg
  | decodehex =>
    obtain ⟨hbuf, hlen⟩ := hsrc
    have hstring : t.hexString = s.hexString := by rw [State.hexString, State.hexString, hbuf, hlen]
    simp only [exec, execDecodehex, hstring]
    cases s.hexString.bind parseHex with
    | none => exact sameOutcome_raise _
    | some w =>
      exact sameOutcome_normalEnd fun g hg => by
        cases g with
        | word => rfl
        | _ => cases hg
  | fields =>
    have hword : s.word = t.word := hsrc
    simp only [exec, execFields, hword]
    exact sameOutcome_normalEnd fun g hg => by
      cases g with
      | addrCmdb => rfl
      | _ => cases hg
  | pack =>
    obtain ⟨haddr, hcmdb⟩ := hsrc
    simp only [exec, execPack, haddr, hcmdb]
    exact sameOutcome_normalEnd fun g hg => by
      cases g with
      | word => rfl
      | _ => cases hg
  | encframe =>
    obtain ⟨haddr, hcmdb, hgap⟩ := hsrc
    simp only [exec, execEncframe, gapSegment, hparams, haddr, hcmdb, hgap]
    split_ifs
    · exact sameOutcome_raise _
    · exact sameOutcome_refuse _
    · exact sameOutcome_normalEnd fun g hg => by
        cases g with
        | segments => rfl
        | _ => cases hg
  | encrep =>
    obtain ⟨haddr, hcmdb, hrep, hgap⟩ := hsrc
    simp only [exec, execEncrep, gapSegment, hparams, haddr, hcmdb, hrep, hgap]
    split_ifs
    · exact sameOutcome_raise _
    · exact sameOutcome_refuse _
    · exact sameOutcome_normalEnd fun g hg => by
        cases g with
        | segments => rfl
        | _ => cases hg
  | render idx =>
    have hcfg := sameRenderConfig_of_sources hsrc
    simp only [exec, execRender, renderStyle_of_sameConfig hcfg, validSegs_of_sources hsrc]
    cases renderStyle s.cfg with
    | none => exact sameOutcome_raise _
    | some m =>
      cases s.validSegs[idx]? with
      | none => exact sameOutcome_raise _
      | some g =>
        exact sameOutcome_renderInto hparams hcfg fun ch l r g hg => by
          cases g with
          | samples => rfl
          | _ => cases hg
  | assemble =>
    have hcfg := sameRenderConfig_of_sources hsrc
    simp only [exec, execAssemble, renderStyle_of_sameConfig hcfg, validSegs_of_sources hsrc]
    cases renderStyle s.cfg with
    | none => exact sameOutcome_raise _
    | some m =>
      exact sameOutcome_renderInto hparams hcfg fun ch l r g hg => by
        cases g with
        | samples => rfl
        | _ => cases hg
  | generate =>
    obtain ⟨haddr, hcmdb, hcfg⟩ := hsrc
    simp only [exec, execGenerate, ← hcfg]
    cases generateStyle s.cfg with
    | none => exact sameOutcome_raise _
    | some m =>
      exact sameOutcome_generateInto hparams haddr hcmdb hcfg fun segs ch l r g hg => by
        cases g with
        | segments | samples => rfl
        | _ => cases hg
  | genword =>
    obtain ⟨hword, hcfg⟩ := hsrc
    simp only [exec, execGenword, ← hcfg, ← hword]
    cases generateStyle s.cfg with
    | none => exact sameOutcome_raise _
    | some m =>
      exact sameOutcome_generateInto hparams rfl rfl hcfg fun segs ch l r g hg => by
        cases g with
        | addrCmdb | segments | samples => rfl
        | _ => cases hg
  | towav =>
    obtain ⟨hl, hr, hlen, hch, hfs⟩ := hsrc
    have hpcm : t.pcmData = s.pcmData := by
      simp only [State.pcmData, State.validLeft, State.validRight, hl, hr, hlen, hch]
    simp only [exec, execTowav, hpcm, hparams, hlen, hch, hfs]
    split_ifs
    · exact sameOutcome_raise _
    · exact sameOutcome_refuse _
    · exact sameOutcome_refuse _
    · exact sameOutcome_normalEnd fun g hg => by
        cases g with
        | wav => rfl
        | _ => cases hg

end TwoRuns

/-- Settles O56: the two runs have the same outcome, and a listed address reads the listed destinations alone. -/
theorem destinationsDependOnSourcesAlone : Obligations.DestinationsDependOnSourcesAlone := by
  intro i s t s' hparams hsrc h
  have hsame := exec_sameOutcome hparams hsrc
  rw [h] at hsame
  cases ht : exec i t with
  | fault f => cases f
  | refused r => rw [ht] at hsame; exact hsame.elim
  | next t' =>
    rw [ht] at hsame
    obtain ⟨hstatus, hagree⟩ := hsame
    exact ⟨t', rfl, hstatus, fun hend =>
      ⟨fun a ha => readValue_of_agreeWhere (hagree hend) ha, samples_of_agreeWhere (hagree hend)⟩⟩

end Sys2Proof.Machine

/-! # Family 20_memory: what a bus address reads, the transactions, the busy window, the capacities -/

namespace Sys2Proof.Machine

/-! ## A write to OP (20_memory.md R56) -/

theorem step_write_op {s : State} {a d : Word} {rest : List BusEvent} (hp : s.pending = .write a d :: rest)
    (hb : s.busy = false) (ha : a.toNat = Slot.op.number) : step s = runCommand d (s.takeEvent rest) := by
  have hb' : (s.takeEvent rest).busy = false := hb
  simp [step, stepEvent, hp, transact, busWrite, hb', targetSlot_eq_some.2 ha]

theorem runCommand_command {d : Word} {i : Instr} (h : decode d = .command i) (s : State) :
    runCommand d s = onNext State.openBusyWindow (exec i (s.setOp d)) := by
  rw [runCommand, h]

/-- With BUSY_POLLS = 0 no window opens after a command, whatever its answer. -/
theorem onNext_openBusyWindow_reference {i : Instr} {s : State} (h : s.params.busyPolls = 0) :
    onNext State.openBusyWindow (exec i s) = exec i s := by
  cases hr : exec i s with
  | next t =>
    obtain ⟨-, -, hparams, -⟩ := exec_keeps hr
    rw [onNext_next, openBusyWindow_reference (hparams ▸ h)]
  | fault f => rfl
  | refused r => rfl

/-- Settles O6: the write stores OP and runs the decoded command. -/
theorem stepRunsTheCommandWritten : Obligations.StepRunsTheCommandWritten := by
  intro s d rest i hp hb hd
  have hstep : step s = onNext State.openBusyWindow (exec i ((s.takeEvent rest).setOp d)) :=
    (step_write_op hp hb rfl).trans (runCommand_command hd _)
  exact ⟨hstep, fun hpolls => hstep.trans (onNext_openBusyWindow_reference hpolls)⟩

/-! ## What a bus address reads (20_memory.md R50, R51) -/

/-- An address is the base of its space and an index of 28 bits. -/
theorem spaceOf_indexOf_of_toNat {a : Word} {sp : Space} {j : Nat} (hj : j < 2 ^ 28)
    (ha : a.toNat = sp.base.toNat + j) : spaceOf a = some sp ∧ indexOf a = j := by
  have hbase : sp.base.toNat / 2 ^ 28 * 2 ^ 28 = sp.base.toNat := by cases sp <;> rfl
  have hindex : indexOf a = j := by
    simp only [indexOf, BitVec.extractLsb'_toNat, Nat.shiftRight_zero]; omega
  have hspace : (a.extractLsb' 28 4).toNat = sp.base.toNat / 2 ^ 28 := by
    have := a.isLt
    simp only [BitVec.extractLsb'_toNat, Nat.shiftRight_eq_div_pow]; omega
  refine ⟨?_, hindex⟩
  rw [spaceOf, hspace]
  cases sp <;> rfl

theorem readValue_slot {a : Word} {r : Slot} (ha : a.toNat = r.number) (s : State) :
    readValue a s = some (slotValue r s) := by
  have hr : r.number < 2 ^ 28 := by cases r <;> simp only [Slot.number] <;> omega
  obtain ⟨hsp, hidx⟩ := spaceOf_indexOf_of_toNat (sp := .reg) hr (by simpa [Space.base] using ha)
  simp only [readValue, hsp, hidx, slotOf_number, Option.map_some]

section Memories

variable {s : State} {a : Word} {j : Nat}

theorem readValue_seg {g : Segment} (hj : j < 2 ^ 28) (ha : a.toNat = 0x10000000 + j) (hlen : j < s.seglen.toNat)
    (hg : s.seg[j]? = some g) : readValue a s = some (segmentWord g) := by
  obtain ⟨hsp, hidx⟩ := spaceOf_indexOf_of_toNat (sp := .seg) hj ha
  simp only [readValue, hsp, hidx, State.validSegs, List.getElem?_take_of_lt hlen, hg, Option.map_some]

theorem readValue_smpl {x : Sample} (hj : j < 2 ^ 28) (ha : a.toNat = 0x20000000 + j) (hlen : j < s.smplen.toNat)
    (hch : s.smpch ≠ 0) (hx : s.smpl[j]? = some x) : readValue a s = some (sampleWord x) := by
  obtain ⟨hsp, hidx⟩ := spaceOf_indexOf_of_toNat (sp := .smpl) hj ha
  simp only [readValue, hsp, hidx, if_neg hch, State.validLeft, List.getElem?_take_of_lt hlen, hx, Option.map_some]

theorem readValue_smpr {x : Sample} (hj : j < 2 ^ 28) (ha : a.toNat = 0x30000000 + j) (hlen : j < s.smplen.toNat)
    (hch : s.smpch = 2) (hx : s.smpr[j]? = some x) : readValue a s = some (sampleWord x) := by
  obtain ⟨hsp, hidx⟩ := spaceOf_indexOf_of_toNat (sp := .smpr) hj ha
  simp only [readValue, hsp, hidx, if_pos hch, State.validRight, List.getElem?_take_of_lt hlen, hx, Option.map_some]

theorem readValue_wav {b : Byte} (hj : j < 2 ^ 28) (ha : a.toNat = 0x40000000 + j) (hlen : j < s.wavlen.toNat)
    (hb : s.wav[j]? = some b) : readValue a s = some (b.setWidth 32) := by
  obtain ⟨hsp, hidx⟩ := spaceOf_indexOf_of_toNat (sp := .wav) hj ha
  simp only [readValue, hsp, hidx, State.validWav, List.getElem?_take_of_lt hlen, hb, Option.map_some]

end Memories

/-- The segment word as a number (30_encoding.md R87). -/
theorem segmentWord_toNat {g : Segment} (h : g.ticks < 2 ^ 31) :
    (segmentWord g).toNat = (if g.kind = .pulse then 2 ^ 31 else 0) + g.ticks := by
  have hticks : (BitVec.ofNat 31 g.ticks).toNat = g.ticks := by
    rw [BitVec.toNat_ofNat, Nat.mod_eq_of_lt h]
  rw [segmentWord, BitVec.toNat_append, hticks, ← Nat.shiftLeft_add_eq_or_of_lt h]
  cases g.kind <;> rfl

/-- Rounding stays between integer bounds. -/
theorem roundHalfUp_range {x : Rat} {lo hi : Int} (hlo : (lo : Rat) ≤ x) (hhi : x ≤ hi) :
    lo ≤ roundHalfUp x ∧ roundHalfUp x ≤ hi := by
  obtain ⟨hle, hlt⟩ := (roundHalfUp_eq_iff x _).1 rfl
  have h1 : (lo : Rat) < roundHalfUp x + 1 := by linarith
  have h2 : (roundHalfUp x : Rat) < hi + 1 := by linarith
  exact ⟨Int.lt_add_one_iff.1 (by exact_mod_cast h1), Int.lt_add_one_iff.1 (by exact_mod_cast h2)⟩

/-- Q16 fits 16 bits (44_wav.md R200): the scaled sample is clamped before it is rounded. -/
theorem quantize_range (x : Rat) : -32768 ≤ quantize x ∧ quantize x ≤ 32767 := by
  have hlo : -1 ≤ min 1 (max (-1) x) := le_min (by norm_num) (le_max_left _ _)
  have hhi : min 1 (max (-1) x) ≤ 1 := min_le_left _ _
  apply roundHalfUp_range
  all_goals
    push_cast
    split_ifs <;> linarith

theorem sampleWord_toInt (x : Sample) : (sampleWord x).toInt = quantize x := by
  obtain ⟨hlo, hhi⟩ := quantize_range x
  exact BitVec.toInt_ofInt_eq_self (by decide) (by omega) (by omega)

/-! ## A read while BUSY = 0 (20_memory.md R51) -/

theorem step_read {s : State} {a : Word} {rest : List BusEvent} (hp : s.pending = .read a :: rest)
    (hb : s.busy = false) : step s = .next (answerRead a (s.takeEvent rest)) := by
  have hb' : (s.takeEvent rest).busy = false := hb
  simp [step, stepEvent, hp, transact, busRead, hb']

theorem answerRead_of_value {a v : Word} {s : State} (h : readValue a s = some v) :
    answerRead a s = { s with reply := some v } := by
  rw [answerRead, h]

/-- A read always answers, with the specified value where there is one, and changes the draw counter at most. -/
theorem answerRead_answers (a : Word) (s : State) :
    ∃ v n, answerRead a s = { s with reply := some v, draws := n } ∧ ∀ w, readValue a s = some w → v = w := by
  cases h : readValue a s with
  | some v => exact ⟨v, s.draws, answerRead_of_value h, fun w hw => Option.some.inj hw⟩
  | none => exact ⟨_, _, by rw [answerRead, h], nofun⟩

/-- A read of a location with a specified value answers it and changes nothing else. -/
theorem step_read_of_value {s : State} {a v : Word} {rest : List BusEvent} (hp : s.pending = .read a :: rest)
    (hb : s.busy = false) (hv : readValue a s = some v) :
    step s = .next { s with pending := rest, reply := some v } := by
  have hv' : readValue a (s.takeEvent rest) = some v := hv
  rw [step_read hp hb, answerRead_of_value hv']
  rfl

/-- The answer field and the host's queue are nothing a read sees. -/
theorem readValue_host (a : Word) (s : State) (rest : List BusEvent) (reply : Option Word) :
    readValue a { s with pending := rest, reply := reply } = readValue a s := rfl

/-- Settles O7: the read answers `readValue`, which is the register or entry at the address. -/
theorem readReturnsTheEntry : Obligations.ReadReturnsTheEntry := by
  intro s a rest hp hb
  obtain ⟨v, n, hanswer, hvalue⟩ := answerRead_answers a (s.takeEvent rest)
  have hread : ∀ w, readValue a s = some w → v = w := hvalue
  have hslot : ∀ r : Slot, a.toNat = r.number → v = slotValue r s := fun r ha => hread _ (readValue_slot ha s)
  have hnarrow : ∀ (r : Slot) {w : Nat} (x : BitVec w), slotValue r s = x.setWidth 32 → w ≤ 32 →
      a.toNat = r.number → v.toNat = x.toNat := fun r w x hx hw ha => by
    rw [hslot r ha, hx, BitVec.toNat_setWidth_of_le hw]
  refine ⟨v, n, (step_read hp hb).trans (congrArg _ hanswer), ?_, ?_, ?_, ?_, ?_, ?_, ?_, ?_, ?_, ?_, ?_, ?_, ?_, ?_,
    ?_, ?_, ?_, ?_, ?_, ?_, ?_, ?_, ?_, ?_, ?_⟩
  · rintro rfl; exact hslot .op rfl
  · rintro rfl; exact hnarrow .status s.status rfl (by decide) rfl
  · rintro rfl; exact hslot .hexpush rfl
  · rintro rfl; exact hnarrow .hexlen s.hexlen rfl (by decide) rfl
  · rintro rfl; exact hslot .word rfl
  · rintro rfl; exact hnarrow .addr s.addr rfl (by decide) rfl
  · rintro rfl; exact hnarrow .cmdb s.cmdb rfl (by decide) rfl
  · rintro rfl; exact hslot .carrierHz rfl
  · rintro rfl; exact hslot .sampleHz rfl
  · rintro rfl; exact hnarrow .mode s.cfg.mode rfl (by decide) rfl
  · rintro rfl; exact hnarrow .duty s.cfg.duty rfl (by decide) rfl
  · rintro rfl; exact hnarrow .comp s.cfg.comp rfl (by decide) rfl
  · rintro rfl; exact hslot .rep rfl
  · rintro rfl; exact hnarrow .gapUs s.cfg.gapUs rfl (by decide) rfl
  · rintro rfl; exact hnarrow .amp s.cfg.amp rfl (by decide) rfl
  · rintro rfl; exact hnarrow .ampIdle s.cfg.ampIdle rfl (by decide) rfl
  · rintro rfl; exact hnarrow .seglen s.seglen rfl (by decide) rfl
  · rintro rfl; exact hnarrow .smplen s.smplen rfl (by decide) rfl
  · rintro rfl; exact hnarrow .smpch s.smpch rfl (by decide) rfl
  · rintro rfl; exact hnarrow .wavlen s.wavlen rfl (by decide) rfl
  · exact fun i ha => hnarrow (.hexbuf i) (s.hexbuf.get i) rfl (by decide) ha
  · intro j g hj ha hlen hg hticks
    rw [hread _ (readValue_seg hj ha hlen hg), segmentWord_toNat hticks]
  · intro j x hj ha hlen hch hx
    have hch' : s.smpch ≠ 0 := fun h0 => by simp [h0] at hch
    rw [hread _ (readValue_smpl hj ha hlen hch' hx), sampleWord_toInt]
  · intro j x hj ha hlen hch hx
    rw [hread _ (readValue_smpr hj ha hlen hch hx), sampleWord_toInt]
  · intro j b hj ha hlen hx
    rw [hread _ (readValue_wav hj ha hlen hx), BitVec.toNat_setWidth_of_le (by decide)]

/-- Settles O8: the first read leaves a state that differs in the answer and the queue alone, so the second reads the
same value. -/
theorem readsAreRepeatable : Obligations.ReadsAreRepeatable := by
  intro s t a v rest hp hb hv ht
  rw [step_read_of_value hp hb hv] at ht
  obtain rfl := Host.Outcome.next.inj ht
  exact ⟨rfl, ⟨_, step_read_of_value rfl hb hv, rfl⟩, fun b => readValue_host b s _ _⟩

/-! ## HEXPUSH (20_memory.md R55) -/

theorem pushHex_hexlen_toNat (s : State) (c : Byte) : (s.pushHex c).hexlen.toNat = min (s.hexlen.toNat + 1) 255 := by
  have hlt := s.hexlen.isLt
  rw [State.pushHex_hexlen]
  split_ifs with h
  · have hfit : s.hexlen.toNat + (1 : Byte).toNat < 2 ^ 8 := by
      change _ + 1 < 256; omega
    rw [BitVec.toNat_add_of_lt hfit]
    change s.hexlen.toNat + 1 = _; omega
  · omega

theorem pushHex_hexbuf_get (s : State) (c : Byte) (i : Fin 16) :
    (s.pushHex c).hexbuf.get i = if i.val = s.hexlen.toNat then c else s.hexbuf.get i := by
  simp only [State.pushHex_hexbuf, Vector.get_eq_getElem, Vector.getElem_setIfInBounds, eq_comm]

/-- Settles O11: the write is `pushHex` of the low byte. -/
theorem hexpushAppendsAndCounts : Obligations.HexpushAppendsAndCounts := by
  intro s d rest hp hb
  refine ⟨_, _, step_write_slot (r := .hexpush) hp hb rfl nofun,
    pushHex_hexlen_toNat (s.takeEvent rest) (d.setWidth 8), fun i => ?_⟩
  rw [BitVec.ofNat_toNat]
  exact pushHex_hexbuf_get (s.takeEvent rest) (d.setWidth 8) i

/-! ## The busy window (20_memory.md R64) -/

section BusyWindow

variable {s : State} {a d : Word} {rest : List BusEvent}

theorem step_status_poll (hp : s.pending = .read a :: rest) (hb : s.busy = true) (ha : a.toNat = Slot.status.number) :
    step s = .next (s.takeEvent rest).pollBusy := by
  have hb' : (s.takeEvent rest).busy = true := hb
  simp [step, stepEvent, hp, transact, busRead, hb', targetSlot_eq_some.2 ha]

theorem step_busy_read (hp : s.pending = .read a :: rest) (hb : s.busy = true) (ha : a.toNat ≠ Slot.status.number) :
    step s = .refused .transactionWhileBusy := by
  have hb' : (s.takeEvent rest).busy = true := hb
  simp [step, stepEvent, hp, transact, busRead, hb', targetSlot_eq_some, ha, refuse]

theorem step_busy_write (hp : s.pending = .write a d :: rest) (hb : s.busy = true) :
    step s = .refused .transactionWhileBusy := by
  have hb' : (s.takeEvent rest).busy = true := hb
  simp [step, stepEvent, hp, transact, busWrite, hb', refuse]

end BusyWindow

/-- A STATUS read in a busy window: BUSY is 1, bit 3 and bits 31:6 are 0, whatever the free bits are. -/
theorem busyStatusWord_bits (free : Word) : (busyStatusWord free).getLsbD 0 = true ∧
    (busyStatusWord free).getLsbD 3 = false ∧ (busyStatusWord free).toNat < 64 := by
  obtain ⟨-, -, -, hbusy, h3⟩ :=
    statusFields_pack (free.extractLsb' 4 2) (free.getLsbD 2) (free.getLsbD 1) true
  have hbit : ∀ k, k < 32 → (busyStatusWord free).getLsbD k =
      (packStatus (free.extractLsb' 4 2) (free.getLsbD 2) (free.getLsbD 1) true).getLsbD k := fun k hk => by
    rw [busyStatusWord, BitVec.getLsbD_setWidth, decide_eq_true hk, Bool.true_and]
  refine ⟨(hbit 0 (by decide)).trans hbusy, (hbit 3 (by decide)).trans h3, ?_⟩
  rw [busyStatusWord, BitVec.toNat_setWidth_of_le (by decide)]
  exact BitVec.isLt _

/-- A poll uses one of the polls left, clears BUSY with the last and keeps the stored result. -/
theorem pollBusy_status (s : State) : (s.pollBusy.busy = true ↔ 1 < s.pollsLeft) ∧
    statusDone s.pollBusy.status = statusDone s.status ∧ statusErr s.pollBusy.status = statusErr s.status ∧
    statusErrCode s.pollBusy.status = statusErrCode s.status := by
  obtain ⟨hcode, herr, hdone, hbusy, -⟩ := setBusyBit_fields (decide (1 < s.pollsLeft)) s.status
  refine ⟨?_, hdone, herr, hcode⟩
  change statusBusy (setBusyBit _ s.status) = true ↔ _
  rw [hbusy, decide_eq_true_iff]

/-- Settles O12: in the window a STATUS read is a poll, and the bus refuses everything else. -/
theorem busyWindowAllowsStatusReadsOnly : Obligations.BusyWindowAllowsStatusReadsOnly := by
  rintro s rest ⟨-, -, -, hwin, -⟩ hb
  refine ⟨fun hp => ?_, fun a ha hp => ?_, fun a d hp => step_busy_write hp hb⟩
  · have hpos : 0 < s.pollsLeft := hwin.1 hb
    obtain ⟨h0, h3, hlt⟩ := busyStatusWord_bits (Config.freeWord s.draws)
    obtain ⟨hbusy, hdone, herr, hcode⟩ := pollBusy_status (s.takeEvent rest)
    exact ⟨_, _, step_status_poll hp hb rfl, rfl, h0, h3, hlt, Nat.sub_add_cancel hpos, hbusy, hdone, herr, hcode,
      rfl⟩
  · exact step_busy_read hp hb fun h => ha (BitVec.eq_of_toNat_eq h)

/-! ## Refused commands (20_memory.md R60, 60_exceptions.md R224, R237) -/

/-- The command is refused, whatever the reason's name. -/
def IsRefused (r : Result) : Prop := ∃ x, r = .refused x

theorem not_isRefused_next (s : State) : ¬IsRefused (.next s) := nofun

/-- A failed check wins over every capacity condition after it (60_exceptions.md R224). -/
theorem isRefused_checked {p : Prop} [Decidable p] {k : ErrorKind} {s : State} {r : Result} :
    IsRefused (if p then raise k s else r) ↔ ¬p ∧ IsRefused r := by
  by_cases hp : p
  · rw [if_pos hp]
    exact iff_of_false (not_isRefused_next _) fun h => h.1 hp
  · rw [if_neg hp, and_iff_right hp]

/-- A capacity condition that holds refuses the command. -/
theorem isRefused_capped {p : Prop} [Decidable p] {x : Refusal} {r : Result} :
    IsRefused (if p then refuse x else r) ↔ p ∨ IsRefused r := by
  by_cases hp : p
  · rw [if_pos hp]
    exact iff_of_true ⟨x, rfl⟩ (.inl hp)
  · rw [if_neg hp, or_iff_right hp]

/-- One capacity condition, and the command ends normally when it does not hold. -/
theorem isRefused_capped_normalEnd {p : Prop} [Decidable p] {x : Refusal} {s : State} :
    IsRefused (if p then refuse x else normalEnd s) ↔ p :=
  isRefused_capped.trans (or_iff_left (not_isRefused_next _))

theorem isRefused_renderInto {m : Modulation} {segs : List Segment} {s : State} :
    IsRefused (renderInto m segs s) ↔ s.params.smpCap.val < totalSamples s.cfg segs :=
  isRefused_capped_normalEnd

theorem isRefused_generateInto {m : Modulation} {s : State} (hrep : s.cfg.rep ≠ 0) :
    IsRefused (generateInto m s) ↔
      s.params.segCap.val < 68 * s.cfg.rep.toNat ∨ s.params.smpCap.val < s.cfg.rep.toNat * frameSamples s.cfg := by
  rw [generateInto, isRefused_capped, isRefused_renderInto, State.setSeg_params, State.setSeg_cfg,
    repeatedFrames_total _ _ _ (toNat_pos_of_ne_zero hrep)]

theorem renderStyle_eq_none {cfg : GenConfig} : renderStyle cfg = none ↔ ¬RenderLegal cfg := by
  constructor
  · intro hnone hlegal
    obtain ⟨m, hm, -⟩ := renderLegal_style hlegal
    rw [hnone] at hm; cases hm
  · intro hillegal
    cases h : renderStyle cfg with
    | none => rfl
    | some m => exact absurd (renderStyle_eq_some.1 h).1 hillegal

theorem generateStyle_eq_none {cfg : GenConfig} :
    generateStyle cfg = none ↔ ¬RenderLegal cfg ∨ cfg.rep = 0 ∨ cfg.gapUs = 0 := by
  unfold generateStyle
  by_cases h : cfg.rep = 0 ∨ cfg.gapUs = 0
  · rw [if_pos h]
    exact iff_of_true rfl (.inr h)
  · rw [if_neg h, renderStyle_eq_none, or_iff_left h]

theorem isRefused_render {idx : Nat} {s : State} (hwf : Memory.wf s) : IsRefused (exec (.render idx) s) ↔
    ¬FailsCheck (.render idx) s ∧ ExceedsCapacity (.render idx) s := by
  have hlen : s.seglen.toNat = s.seg.length := hwf.1.1
  have htotal : ∀ g, totalSamples s.cfg [g] = countOf s.cfg g.ticks := fun g => by
    simp [totalSamples, sampleCount, countOf]
  simp only [exec, execRender, FailsCheck, ExceedsCapacity, validSegs_of_wf hwf, hlen, ← renderStyle_eq_none,
    ← List.getElem?_eq_none_iff]
  cases renderStyle s.cfg with
  | none => exact iff_of_false (not_isRefused_next _) (by simp)
  | some m =>
    cases s.seg[idx]? with
    | none => exact iff_of_false (not_isRefused_next _) (by simp)
    | some g => simp [isRefused_renderInto, htotal]

theorem isRefused_assemble {s : State} (hwf : Memory.wf s) :
    IsRefused (exec .assemble s) ↔ ¬FailsCheck .assemble s ∧ ExceedsCapacity .assemble s := by
  simp only [exec, execAssemble, FailsCheck, ExceedsCapacity, validSegs_of_wf hwf, startOf_length,
    ← renderStyle_eq_none]
  cases renderStyle s.cfg with
  | none => exact iff_of_false (not_isRefused_next _) (by simp)
  | some m => simp [isRefused_renderInto]

theorem isRefused_generate {s : State} :
    IsRefused (exec .generate s) ↔ ¬FailsCheck .generate s ∧ ExceedsCapacity .generate s := by
  simp only [exec, execGenerate, FailsCheck, ExceedsCapacity, ← generateStyle_eq_none]
  cases h : generateStyle s.cfg with
  | none => exact iff_of_false (not_isRefused_next _) (by simp)
  | some m =>
    obtain ⟨-, hrep, -⟩ := generateStyle_eq_some.1 h
    simp [isRefused_generateInto hrep]

/-- GENWORD has GENERATE's checks and capacities: ADDR and CMDB are in none of them. -/
theorem isRefused_genword {s : State} :
    IsRefused (exec .genword s) ↔ ¬FailsCheck .genword s ∧ ExceedsCapacity .genword s := by
  simp only [exec, execGenword, FailsCheck, ExceedsCapacity, ← generateStyle_eq_none]
  cases h : generateStyle s.cfg with
  | none => exact iff_of_false (not_isRefused_next _) (by simp)
  | some m =>
    obtain ⟨-, hrep, -⟩ := generateStyle_eq_some.1 h
    simp [isRefused_generateInto (s := s.setAddrCmdb (addressField s.word) (commandField s.word)) hrep]

theorem isRefused_towav {s : State} :
    IsRefused (exec .towav s) ↔ ¬FailsCheck .towav s ∧ ExceedsCapacity .towav s := by
  simp only [exec, execTowav, FailsCheck, ExceedsCapacity]
  rw [isRefused_checked, isRefused_capped, isRefused_capped_normalEnd, or_comm (a := s.cfg.sampleHz = 0)]
  rfl

theorem not_isRefused_decodehex (s : State) : ¬IsRefused (exec .decodehex s) := by
  simp only [exec, execDecodehex]
  cases s.hexString.bind parseHex with
  | none => exact not_isRefused_next _
  | some w => exact not_isRefused_next _

/-- Settles O50: the checks of each command come first, then its capacity conditions; the five commands without
capacity conditions are never refused. -/
theorem refusedExactlyOverCapacity : Obligations.RefusedExactlyOverCapacity := by
  intro i s hwf
  change IsRefused (exec i s) ↔ _
  cases i with
  | nop | hexclr | fields | pack => exact iff_of_false (not_isRefused_next _) And.right
  | decodehex => exact iff_of_false (not_isRefused_decodehex s) And.right
  | encframe => exact isRefused_checked.trans (and_congr_right' isRefused_capped_normalEnd)
  | encrep => exact isRefused_checked.trans (and_congr_right' isRefused_capped_normalEnd)
  | render idx => exact isRefused_render hwf
  | assemble => exact isRefused_assemble hwf
  | generate => exact isRefused_generate
  | genword => exact isRefused_genword
  | towav => exact isRefused_towav

end Sys2Proof.Machine

/-! # Family 30_encoding: the fields of a command word, the decoder and the opcode table -/

namespace Sys2Proof

/-! ## The two fields of a command word (30_encoding.md R80) -/

theorem opcodeOf_eq_mod (d : Word) : opcodeOf d = d.toNat % 256 := by
  simp [opcodeOf]

theorem upperOf_eq_div (d : Word) : upperOf d = d.toNat / 256 := by
  have hd : d.toNat < 2 ^ 32 := d.isLt
  rw [upperOf, BitVec.extractLsb'_toNat, Nat.shiftRight_eq_div_pow]
  omega

theorem upperOf_lt (d : Word) : upperOf d < 2 ^ 24 := BitVec.isLt _

/-- A word is determined by its two fields, and `encode` fills them. -/
theorem encode_eq_iff {i : Instr} {d : Word} :
    encode i = d ↔ opcodeOf d = i.opcode.toNat ∧ upperOf d = i.upper.toNat := by
  have hop := i.opcode.isLt
  have hword : (encode i).toNat = i.upper.toNat * 256 + i.opcode.toNat := by
    rw [encode, BitVec.toNat_append, ← Nat.shiftLeft_add_eq_or_of_lt hop, Nat.shiftLeft_eq]
  rw [← BitVec.toNat_inj, hword, opcodeOf_eq_mod, upperOf_eq_div]
  omega

/-- The two formats of R80: RENDER (C1), and the commands whose upper bits are 0 and whose row of the table fixes all
32 bits (C0). -/
theorem format_cases (i : Instr) : (∃ idx, i = .render idx) ∨
    (i.opcode.toNat ≠ 0x07 ∧ i.upper = 0 ∧ i.wellFormed = true ∧ i.tableMask = BitVec.allOnes 32 ∧
      i.tableMatch = encode i) := by
  cases i with
  | render idx => exact .inl ⟨idx, rfl⟩
  | _ => exact .inr (by decide)

/-! ## The decoder (30_encoding.md R84, R86) -/

theorem toNat_opcode_le (i : Instr) : i.opcode.toNat ≤ 0x0B := by
  cases i <;> simp [Instr.opcode]

/-- The opcode map in both directions: it finds the command of the opcode, with the number given for RENDER. -/
theorem commandOf_eq_some {k n : Nat} {i : Instr} :
    commandOf k n = some i ↔ k = i.opcode.toNat ∧ (k = 0x07 → i = .render n) := by
  constructor
  · intro h
    unfold commandOf at h
    split at h <;> cases h <;> simp [Instr.opcode]
  · rintro ⟨rfl, hrender⟩
    cases i with
    | render idx => exact congrArg some (hrender rfl).symm
    | _ => rfl

theorem exists_commandOf {k n : Nat} : (∃ i, commandOf k n = some i) ↔ k ≤ 0x0B := by
  constructor
  · rintro ⟨i, h⟩
    exact (commandOf_eq_some.1 h).1 ▸ toNat_opcode_le i
  · intro h
    interval_cases k <;> exact ⟨_, rfl⟩

/-- A word decodes to the command of its opcode, if its upper bits are 0 or RENDER's number. -/
theorem decode_eq_command {d : Word} {i : Instr} : decode d = .command i ↔
    commandOf (opcodeOf d) (upperOf d) = some i ∧ (opcodeOf d = 0x07 ∨ upperOf d = 0) := by
  unfold decode
  cases commandOf (opcodeOf d) (upperOf d) with
  | none => simp
  | some j =>
    by_cases hzero : opcodeOf d ≠ 0x07 ∧ upperOf d ≠ 0
    · simp [hzero]
    · simp only [if_neg hzero, Decoded.command.injEq, Option.some.injEq]
      exact (and_iff_left (by omega)).symm

/-- The words that decode. -/
theorem exists_decode_eq_command {d : Word} :
    (∃ i, decode d = .command i) ↔ opcodeOf d ≤ 0x0B ∧ (opcodeOf d = 0x07 ∨ upperOf d = 0) := by
  simp only [decode_eq_command, exists_and_right, exists_commandOf]

theorem exists_decode_eq_illegal {d : Word} : (∃ r, decode d = .illegal r) ↔ ¬∃ i, decode d = .command i := by
  cases decode d <;> simp

/-- A word decodes to a command exactly when it is that command's own word: both directions of the round trip. -/
theorem decode_eq_command_iff_encode {d : Word} {i : Instr} :
    decode d = .command i ↔ i.wellFormed = true ∧ encode i = d := by
  rw [decode_eq_command, commandOf_eq_some, encode_eq_iff]
  rcases format_cases i with ⟨idx, rfl⟩ | ⟨hop, hupper, hwf, -⟩
  · have hlt := upperOf_lt d
    change (opcodeOf d = 0x07 ∧ _) ∧ _ ↔ _ ∧ opcodeOf d = 0x07 ∧ _
    simp only [Instr.wellFormed, Instr.upper, Instr.render.injEq, BitVec.toNat_ofNat, decide_eq_true_eq]
    omega
  · have hzero : i.upper.toNat = 0 := by rw [hupper]; rfl
    rw [hzero]
    constructor
    · rintro ⟨⟨h, -⟩, h7 | h0⟩
      · exact absurd (h.symm.trans h7) hop
      · exact ⟨hwf, h, h0⟩
    · rintro ⟨-, h, h0⟩
      exact ⟨⟨h, fun h7 => absurd (h.symm.trans h7) hop⟩, .inr h0⟩

/-- Settles O1: by the round trip, read from the command to the word. -/
theorem decodeOfEncodeIsTheCommand : Obligations.DecodeOfEncodeIsTheCommand :=
  fun _ hwf => decode_eq_command_iff_encode.2 ⟨hwf, rfl⟩

/-- Settles O2: by the round trip, read from the word to the command. -/
theorem encodeOfDecodeIsTheWord : Obligations.EncodeOfDecodeIsTheWord :=
  fun _ _ => decode_eq_command_iff_encode.1

/-! ## The match and mask rows (30_encoding.md R84) -/

/-- A word fits a command's row when it has the command's opcode and, in format C0, upper bits 0. -/
theorem fitsRow_iff {d : Word} {i : Instr} : d &&& i.tableMask = i.tableMatch ↔
    opcodeOf d = i.opcode.toNat ∧ (opcodeOf d = 0x07 ∨ upperOf d = 0) := by
  rcases format_cases i with ⟨idx, rfl⟩ | ⟨hop, hupper, -, hmask, hmatch⟩
  · have hand : (d &&& 0x000000FF#32).toNat = opcodeOf d := by
      rw [opcodeOf_eq_mod, BitVec.toNat_and]
      exact Nat.and_two_pow_sub_one_eq_mod _ 8
    change d &&& 0x000000FF#32 = 0x00000007#32 ↔ opcodeOf d = 0x07 ∧ _
    rw [← BitVec.toNat_inj, hand]
    exact ⟨fun h => ⟨h, .inl h⟩, And.left⟩
  · rw [hmask, hmatch, BitVec.and_allOnes, eq_comm, encode_eq_iff, hupper]
    refine and_congr_right fun h => ?_
    rw [h, or_iff_right hop]
    rfl

theorem fitsRow_of_decode {d : Word} {i : Instr} (h : decode d = .command i) : d &&& i.tableMask = i.tableMatch := by
  obtain ⟨hcommand, hzero⟩ := decode_eq_command.1 h
  exact fitsRow_iff.2 ⟨(commandOf_eq_some.1 hcommand).1, hzero⟩

/-- Settles O4: fitting a row and decoding ask the same of the two fields; a row fixes the opcode. -/
theorem tableRowsDecideDecoding : Obligations.TableRowsDecideDecoding := by
  refine ⟨fun d => ⟨fun ⟨i, h⟩ => ⟨i, fitsRow_of_decode h⟩, ?_⟩, fun _ _ => fitsRow_of_decode, ?_⟩
  · rintro ⟨i, h⟩
    obtain ⟨hop, hzero⟩ := fitsRow_iff.1 h
    exact exists_decode_eq_command.2 ⟨hop ▸ toNat_opcode_le i, hzero⟩
  · intro d i j hi hj
    exact BitVec.eq_of_toNat_eq ((fitsRow_iff.1 hi).1.symm.trans (fitsRow_iff.1 hj).1)

/-- Settles O5: ten closed words. -/
theorem wordsOfTheTableDecode : Obligations.WordsOfTheTableDecode := by
  unfold Obligations.WordsOfTheTableDecode
  decide

end Sys2Proof

namespace Sys2Proof.Machine

/-! ## Illegal words (30_encoding.md R85) -/

theorem runCommand_illegal {d : Word} (h : ∃ r, decode d = .illegal r) (s : State) :
    runCommand d s = .next ((s.setOp d).setStatus 0x36).openBusyWindow := by
  obtain ⟨r, h⟩ := h
  rw [runCommand, h]
  rfl

/-- Settles O3: a word is illegal when its fields fit no command; its write to OP is the error entry. -/
theorem illegalWordsRaiseIllegalCommand : Obligations.IllegalWordsRaiseIllegalCommand := by
  refine ⟨fun d => ?_, fun s d rest hp hb hd => ?_⟩
  · rw [exists_decode_eq_illegal, exists_decode_eq_command, opcodeOf_eq_mod, upperOf_eq_div]
    omega
  · have hstep : step s = .next (((s.takeEvent rest).setOp d).setStatus 0x36).openBusyWindow :=
      (step_write_op hp hb rfl).trans (runCommand_illegal hd _)
    exact ⟨hstep, fun hpolls => hstep.trans (congrArg _ (openBusyWindow_reference hpolls))⟩

end Sys2Proof.Machine

/-! # Family 40_hexcodec: the hex string of DECODEHEX, the fields of a CommandWord, the five commands of the codec -/

namespace Sys2Proof.Machine

/-! ## Hex digits (40_hexcodec.md R112) -/

theorem hexDigit_of_isHexDigit {c : Byte} (h : IsHexDigit c) : hexDigit c = some (digitValue c) := by
  unfold hexDigit digitValue
  obtain ⟨hlo, hhi⟩ | ⟨hlo, hhi⟩ | ⟨hlo, hhi⟩ := h
  · rw [if_pos ⟨hlo, hhi⟩, if_pos hhi]
  · rw [if_neg (by omega), if_pos ⟨hlo, hhi⟩, if_neg (by omega), if_pos hhi]
  · rw [if_neg (by omega), if_neg (by omega), if_pos ⟨hlo, hhi⟩, if_neg (by omega), if_neg (by omega)]

theorem hexDigit_of_not_isHexDigit {c : Byte} (h : ¬IsHexDigit c) : hexDigit c = none := by
  rw [IsHexDigit, not_or, not_or] at h
  obtain ⟨hdigit, hupper, hlower⟩ := h
  rw [hexDigit, if_neg hdigit, if_neg hupper, if_neg hlower]

theorem digitValue_lt {c : Byte} (h : IsHexDigit c) : digitValue c < 16 := by
  unfold digitValue
  split_ifs <;> omega

/-- Reading the digits `cs` after the value `v` appends them to it in base 16: `v` stays above the new digits, and digit
`t` stands at place `cs.length - 1 - t`, the first one most significant. -/
theorem hexValue_digits {cs : List Byte} (h : ∀ c ∈ cs, IsHexDigit c) (v : Nat) :
    ∃ n, hexValue v cs = some n ∧ n / 16 ^ cs.length = v ∧
      ∀ t c, cs[t]? = some c → n / 16 ^ (cs.length - 1 - t) % 16 = digitValue c := by
  induction cs generalizing v with
  | nil => exact ⟨v, rfl, Nat.div_one v, nofun⟩
  | cons c rest ih =>
    obtain ⟨hc, hrest⟩ := List.forall_mem_cons.1 h
    have hlt : digitValue c < 16 := digitValue_lt hc
    obtain ⟨n, hn, htop, hdigits⟩ := ih hrest (v * 16 + digitValue c)
    refine ⟨n, by rw [hexValue, hexDigit_of_isHexDigit hc]; exact hn, ?_, fun t x hx => ?_⟩
    · rw [List.length_cons, pow_succ, ← Nat.div_div_eq_div_mul, htop]
      omega
    · cases t with
      | zero =>
        obtain rfl : c = x := by simpa using hx
        rw [List.length_cons, Nat.add_sub_cancel, Nat.sub_zero, htop]
        omega
      | succ t =>
        rw [List.length_cons, show rest.length + 1 - 1 - (t + 1) = rest.length - 1 - t by omega]
        exact hdigits t x hx

theorem isHexDigit_of_hexValue {cs : List Byte} {v n : Nat} (h : hexValue v cs = some n) :
    ∀ c ∈ cs, IsHexDigit c := by
  induction cs generalizing v with
  | nil => exact nofun
  | cons c rest ih =>
    by_cases hc : IsHexDigit c
    · rw [hexValue, hexDigit_of_isHexDigit hc] at h
      exact List.forall_mem_cons.2 ⟨hc, ih h⟩
    · rw [hexValue, hexDigit_of_not_isHexDigit hc] at h
      cases h

/-! ## The hex string, with and without "0x" (40_hexcodec.md R112) -/

theorem stripPrefix_eq (cs : List Byte) : stripPrefix cs = if HasPrefix cs then cs.drop 2 else cs := by
  match cs with
  | [] => simp [stripPrefix]
  | [c0] => simp [stripPrefix]
  | c0 :: c1 :: rest => simp [stripPrefix, HasPrefix]

theorem hexString_eq_some {s : State} {cs : List Byte} :
    s.hexString = some cs ↔ s.hexlen.toNat ≤ 10 ∧ s.hexbuf.toList.take s.hexlen.toNat = cs := by
  simp [State.hexString]

/-- The strings DECODEHEX accepts, by the model's own reading of the buffer. -/
theorem validHex_iff {s : State} {body : List Byte} : ValidHex s body ↔
    ∃ cs, s.hexString = some cs ∧ stripPrefix cs = body ∧ body.length = 8 ∧ ∀ c ∈ body, IsHexDigit c := by
  constructor
  · rintro ⟨hlen, hhex, ⟨h8, hbody, hbare⟩ | ⟨h10, hmark, hbody⟩⟩
    · refine ⟨body, hexString_eq_some.2 ⟨by omega, by rw [h8, hbody]⟩, ?_, hlen, hhex⟩
      rw [stripPrefix_eq, if_neg hbare]
    · refine ⟨_, hexString_eq_some.2 ⟨by omega, by rw [h10]⟩, ?_, hlen, hhex⟩
      rw [stripPrefix_eq, if_pos hmark, hbody]
  · rintro ⟨cs, hcs, hstrip, hlen, hhex⟩
    obtain ⟨hle, htake⟩ := hexString_eq_some.1 hcs
    have hcount : cs.length = s.hexlen.toNat := by
      rw [← htake, List.length_take, Vector.length_toList]; omega
    rw [stripPrefix_eq] at hstrip
    refine ⟨hlen, hhex, ?_⟩
    by_cases hmark : HasPrefix cs
    · rw [if_pos hmark] at hstrip
      have h10 : s.hexlen.toNat = 10 := by
        rw [← hstrip, List.length_drop] at hlen; omega
      rw [h10] at htake
      exact .inr ⟨h10, htake ▸ hmark, by rw [htake, hstrip]⟩
    · rw [if_neg hmark] at hstrip
      subst hstrip
      have h8 : s.hexlen.toNat = 8 := hcount ▸ hlen
      exact .inl ⟨h8, by rw [← h8, htake], hmark⟩

/-! ## The parse (40_hexcodec.md R112) -/

theorem parseHex_eq_some {cs : List Byte} {w : Word} : parseHex cs = some w ↔
    (stripPrefix cs).length = 8 ∧ ∃ n, hexValue 0 (stripPrefix cs) = some n ∧ BitVec.ofNat 32 n = w := by
  simp [parseHex]

/-- The value of 8 digits is below 16 ^ 8, so the 32-bit word keeps all of them. -/
theorem parse_of_validHex {s : State} {body : List Byte} (h : ValidHex s body) :
    ∃ w, s.hexString.bind parseHex = some w ∧
      ∀ t c, body[t]? = some c → w.toNat / 16 ^ (7 - t) % 16 = digitValue c := by
  obtain ⟨cs, hcs, rfl, hlen, hhex⟩ := validHex_iff.1 h
  obtain ⟨n, hn, htop, hdigits⟩ := hexValue_digits hhex 0
  rw [hlen] at htop hdigits
  have hfits : n < 2 ^ 32 := by omega
  refine ⟨BitVec.ofNat 32 n, ?_, ?_⟩
  · rw [hcs]
    exact parseHex_eq_some.2 ⟨hlen, n, hn, rfl⟩
  · rw [BitVec.toNat_ofNat, Nat.mod_eq_of_lt hfits]
    exact hdigits

theorem validHex_of_parse {s : State} {w : Word} (h : s.hexString.bind parseHex = some w) :
    ∃ body, ValidHex s body := by
  obtain ⟨cs, hcs, hw⟩ := Option.bind_eq_some_iff.1 h
  obtain ⟨hlen, n, hn, -⟩ := parseHex_eq_some.1 hw
  exact ⟨stripPrefix cs, validHex_iff.2 ⟨cs, hcs, rfl, hlen, isHexDigit_of_hexValue hn⟩⟩

/-! ## DECODEHEX -/

theorem exec_decodehex_of_parse {s : State} {w : Word} (h : s.hexString.bind parseHex = some w) :
    exec .decodehex s = .next { s with word := w, status := 0x02 } := by
  simp only [exec, execDecodehex, h]
  exact normalEnd_eq _

theorem exec_decodehex_of_no_parse {s : State} (h : s.hexString.bind parseHex = none) :
    exec .decodehex s = .next { s with status := 0x16 } := by
  simp only [exec, execDecodehex, h]
  exact raise_eq .formatError s

/-- Settles O18: a valid string parses to the word that has its digits. -/
theorem decodehexReadsEightDigits : Obligations.DecodehexReadsEightDigits := by
  intro s body h
  obtain ⟨w, hw, hdigits⟩ := parse_of_validHex h
  exact ⟨w, exec_decodehex_of_parse hw, hdigits⟩

/-- Settles O19: only a valid string parses. -/
theorem decodehexRejectsOtherStrings : Obligations.DecodehexRejectsOtherStrings := by
  intro s h
  exact exec_decodehex_of_no_parse (Option.eq_none_iff_forall_ne_some.2 fun w hw => h (validHex_of_parse hw))

/-! ## The fields of a CommandWord (30_encoding.md R89, 40_hexcodec.md R113, R114) -/

theorem toNat_extractLsb'_byte (w : Word) (k : Nat) : (w.extractLsb' k 8).toNat = w.toNat / 2 ^ k % 2 ^ 8 := by
  rw [BitVec.extractLsb'_toNat, Nat.shiftRight_eq_div_pow]

theorem extractLsb'_byte_eq_ofNat (w : Word) (k : Nat) :
    w.extractLsb' k 8 = BitVec.ofNat 8 (w.toNat / 2 ^ k % 2 ^ 8) := by
  rw [← toNat_extractLsb'_byte, BitVec.ofNat_toNat, BitVec.setWidth_eq]

theorem complement8_eq_not (b : Byte) : complement8 b = ~~~b := BitVec.xor_allOnes

theorem toNat_complement8 (b : Byte) : (complement8 b).toNat = 255 - b.toNat := by
  rw [complement8_eq_not, BitVec.toNat_not]

theorem append_eq_append_iff {m n : Nat} {a a' : BitVec m} {b b' : BitVec n} :
    a ++ b = a' ++ b' ↔ a = a' ∧ b = b' := by
  refine ⟨fun h => ⟨?_, ?_⟩, by rintro ⟨rfl, rfl⟩; rfl⟩
  · simpa only [BitVec.extractLsb'_append_eq_left] using congrArg (BitVec.extractLsb' n m) h
  · simpa only [BitVec.extractLsb'_append_eq_right] using congrArg (BitVec.extractLsb' 0 n) h

theorem toNat_append_eq_add {m n : Nat} (a : BitVec m) (b : BitVec n) :
    (a ++ b).toNat = a.toNat * 2 ^ n + b.toNat := by
  rw [BitVec.toNat_append, ← Nat.shiftLeft_add_eq_or_of_lt b.isLt, Nat.shiftLeft_eq]

/-- A word is its four fields. -/
theorem word_eq_fields (w : Word) :
    addressField w ++ (invAddressField w ++ (commandField w ++ invCommandField w)) = w := by
  have hw : w.toNat < 2 ^ 32 := w.isLt
  apply BitVec.eq_of_toNat_eq
  simp only [addressField, invAddressField, commandField, invCommandField, toNat_append_eq_add, toNat_extractLsb'_byte]
  omega

/-- A word is the CommandWord of `a` and `c` exactly when its fields are these two and their complements. -/
theorem commandWord_eq_iff {a c : Byte} {w : Word} : commandWord a c = w ↔
    a = addressField w ∧ complement8 a = invAddressField w ∧ c = commandField w ∧ complement8 c = invCommandField w := by
  conv_lhs => rw [← word_eq_fields w]
  exact append_eq_append_iff.trans (and_congr_right' (append_eq_append_iff.trans
    (and_congr_right' append_eq_append_iff)))

theorem commandWord_toNat (a c : Byte) : (commandWord a c).toNat =
    a.toNat * 2 ^ 24 + (255 - a.toNat) * 2 ^ 16 + c.toNat * 2 ^ 8 + (255 - c.toNat) := by
  simp only [commandWord, toNat_append_eq_add, toNat_complement8]
  omega

/-! ## PACK and FIELDS -/

theorem exec_pack (s : State) :
    exec .pack s = .next { s with word := commandWord s.addr s.cmdb, status := 0x02 } := normalEnd_eq _

theorem exec_fields (s : State) :
    exec .fields s = .next { s with addr := addressField s.word, cmdb := commandField s.word, status := 0x02 } :=
  normalEnd_eq _

/-- Settles O21: the CommandWord of ADDR and CMDB, as a number. -/
theorem packBuildsTheCommandWord : Obligations.PackBuildsTheCommandWord :=
  fun s => ⟨_, exec_pack s, commandWord_toNat s.addr s.cmdb⟩

/-- Settles O22: both laws say which fields a CommandWord has. -/
theorem packAndFieldsAreInverse : Obligations.PackAndFieldsAreInverse := by
  constructor
  · intro s t u ht hu
    obtain ⟨haddr, -, hcmdb, -⟩ := commandWord_eq_iff.1 (rfl : commandWord s.addr s.cmdb = _)
    rw [exec_pack] at ht
    cases ht
    rw [exec_fields] at hu
    cases hu
    exact ⟨haddr.symm, hcmdb.symm⟩
  · intro s t u ht hu
    rw [exec_fields] at ht
    cases ht
    rw [exec_pack] at hu
    cases hu
    refine commandWord_eq_iff.trans ?_
    simp only [complement8_eq_not, true_and, eq_comm]

/-- Settles O20: the two fields, as numbers. -/
theorem fieldsExtractsBothBytes : Obligations.FieldsExtractsBothBytes := by
  intro s
  rw [exec_fields, addressField, commandField, extractLsb'_byte_eq_ofNat, extractLsb'_byte_eq_ofNat]

/-! ## NOP and HEXCLR -/

/-- Settles O16: NOP is the normal end alone (R110). -/
theorem nopOnlyReportsOk : Obligations.NopOnlyReportsOk := normalEnd_eq

/-- Settles O17: the cleared buffer is the constant one. -/
theorem hexclrEmptiesTheBuffer : Obligations.HexclrEmptiesTheBuffer := by
  intro s
  refine ⟨_, normalEnd_eq _, fun i => ?_⟩
  exact Vector.getElem_replicate i.isLt

end Sys2Proof.Machine

/-! # Family 41_timing_model: the NEC frame, ENCFRAME and ENCREP, the shape of SEG -/

namespace Sys2Proof.Machine

/-! ## The frame, segment by segment (41_timing_model.md R131) -/

/-- Entry `i` of block `k` of a concatenation of equal blocks. -/
theorem getElem?_flatMap_block {α β : Type} {f : α → List β} {n : Nat} (hf : ∀ x, (f x).length = n) {l : List α}
    {k i : Nat} {x : α} (hk : l[k]? = some x) (hi : i < n) : (l.flatMap f)[n * k + i]? = (f x)[i]? := by
  have hlen : k ≤ l.length := (List.getElem?_eq_some_iff.1 hk).1.le
  rw [← getElem?_flatMap_at f l k i x hk (by rwa [hf])]
  simp [hf, hlen, Nat.mul_comm]

theorem byteSegments_bit (v : Byte) {b : Nat} (hb : b < 8) :
    (byteSegments v)[2 * b]? = some bitPulse ∧ (byteSegments v)[2 * b + 1]? = some (bitSpace (v.getLsbD b)) := by
  have hrange : (List.range 8)[b]? = some b := List.getElem?_range hb
  have hpair : ∀ i, i < 2 → (byteSegments v)[2 * b + i]? = [bitPulse, bitSpace (v.getLsbD b)][i]? :=
    fun i => getElem?_flatMap_block (f := fun b => [bitPulse, bitSpace (v.getLsbD b)]) (fun _ => rfl) hrange
  exact ⟨hpair 0 Nat.zero_lt_two, hpair 1 Nat.one_lt_two⟩

theorem dataSegments_length (a c : Byte) : ((payload a c).flatMap byteSegments).length = 64 := by
  simp [payload, byteSegments_length]

/-- The data segments stand between the leader and the stop pulse. -/
theorem frame_data (a c : Byte) {i : Nat} (hi : i < 64) :
    (frame a c)[2 + i]? = ((payload a c).flatMap byteSegments)[i]? := by
  have hdata := dataSegments_length a c
  rw [frame, List.append_assoc, List.getElem?_append_right (Nat.le_add_right 2 i),
    List.getElem?_append_left (by simp [hdata, hi])]
  simp

/-- Bit `b` of payload byte `k`: its pulse and its space. -/
theorem frame_bit {a c v : Byte} {k b : Nat} (hk : (payload a c)[k]? = some v) (hb : b < 8) :
    (frame a c)[2 + 2 * (8 * k + b)]? = some bitPulse ∧
      (frame a c)[3 + 2 * (8 * k + b)]? = some (bitSpace (v.getLsbD b)) := by
  have hk4 : k < 4 := (List.getElem?_eq_some_iff.1 hk).1
  obtain ⟨hpulse, hspace⟩ := byteSegments_bit v hb
  have hentry : ∀ i, i < 16 → (frame a c)[2 + (16 * k + i)]? = (byteSegments v)[i]? := fun i hi => by
    rw [frame_data a c (by omega), getElem?_flatMap_block byteSegments_length hk hi]
  rw [← hpulse, ← hspace, ← hentry (2 * b) (by omega), ← hentry (2 * b + 1) (by omega)]
  constructor <;> congr 1 <;> omega

theorem frame_stop (a c : Byte) : (frame a c)[66]? = some bitPulse := rfl

/-- The payload bytes as numbers (41_timing_model.md R131 step 2). -/
theorem payload_toNat (a c : Byte) :
    (payload a c).map BitVec.toNat = [a.toNat, 255 - a.toNat, c.toNat, 255 - c.toNat] := by
  simp [payload, toNat_complement8]

/-- The space after a bit, by the bit's arithmetic value. -/
theorem bitSpace_getLsbD (v : Byte) (b : Nat) :
    bitSpace (v.getLsbD b) = ⟨.space, if v.toNat / 2 ^ b % 2 = 1 then 3375 else 1125⟩ := by
  simp [bitSpace, BitVec.getLsbD, Nat.testBit_eq_decide_div_mod_eq]

/-! ## Alternation of the kinds (41_timing_model.md R131, R133) -/

/-- Pulses at the even numbers, spaces at the odd ones. -/
def Alternates (l : List Segment) : Prop := ∀ j g, l[j]? = some g → (g.kind = .pulse ↔ j % 2 = 0)

/-- An alternating list that ends with a space, or is empty: another one may follow. -/
def WholePairs (l : List Segment) : Prop := Alternates l ∧ l.length % 2 = 0

theorem wholePairs_pair {p g : Segment} (hp : p.kind = .pulse) (hg : g.kind = .space) : WholePairs [p, g] := by
  refine ⟨fun j x hj => ?_, Nat.mod_self 2⟩
  match j with
  | 0 => cases hj; simp [hp]
  | 1 => cases hj; simp [hg]
  | j + 2 => cases hj

theorem wholePairs_append {l m : List Segment} (hl : WholePairs l) (hm : WholePairs m) : WholePairs (l ++ m) := by
  obtain ⟨hl, hleven⟩ := hl
  obtain ⟨hm, hmeven⟩ := hm
  refine ⟨fun j g hj => ?_, by rw [List.length_append]; omega⟩
  rcases Nat.lt_or_ge j l.length with hlt | hge
  · rw [List.getElem?_append_left hlt] at hj
    exact hl j g hj
  · rw [List.getElem?_append_right hge] at hj
    rw [hm _ g hj]
    omega

theorem wholePairs_flatten {ls : List (List Segment)} (h : ∀ l ∈ ls, WholePairs l) : WholePairs ls.flatten := by
  induction ls with
  | nil => exact ⟨nofun, rfl⟩
  | cons l ls ih =>
    obtain ⟨hl, hls⟩ := List.forall_mem_cons.1 h
    exact wholePairs_append hl (ih hls)

theorem wholePairs_flatMap {α : Type} {f : α → List Segment} (h : ∀ x, WholePairs (f x)) (l : List α) :
    WholePairs (l.flatMap f) := by
  rw [List.flatMap_def]
  exact wholePairs_flatten (List.forall_mem_map.2 fun x _ => h x)

/-- A frame is pairs but for the stop pulse, and the gap completes its pair. -/
theorem gappedFrame_wholePairs (a c : Byte) {gap : Segment} (hgap : gap.kind = .space) :
    WholePairs (frame a c ++ [gap]) := by
  have hbyte : ∀ v, WholePairs (byteSegments v) := fun v => wholePairs_flatMap (fun _ => wholePairs_pair rfl rfl) _
  have hsplit : frame a c ++ [gap] =
      [leaderPulse, leaderSpace] ++ (payload a c).flatMap byteSegments ++ [bitPulse, gap] := by simp [frame]
  rw [hsplit]
  exact wholePairs_append (wholePairs_append (wholePairs_pair rfl rfl) (wholePairs_flatMap hbyte _))
    (wholePairs_pair rfl hgap)

theorem frame_alternates (a c : Byte) : Alternates (frame a c) := by
  intro j g hj
  obtain ⟨halt, -⟩ := gappedFrame_wholePairs a c (gap := leaderSpace) rfl
  refine halt j g ?_
  rw [List.getElem?_append_left (List.getElem?_eq_some_iff.1 hj).1, hj]

theorem repeatedFrames_alternates (a c : Byte) {gap : Segment} (hgap : gap.kind = .space) {rep : Nat} (h : 0 < rep) :
    Alternates (repeatedFrames a c gap rep) := by
  rw [repeatedFrames_eq a c gap h]
  refine (wholePairs_flatten fun l hl => ?_).1
  rw [List.eq_of_mem_replicate hl]
  exact gappedFrame_wholePairs a c hgap

/-- Settles O23: the leader and the stop pulse by their places, a bit by its byte and its number in it. -/
theorem frameIsTheNecFrame : Obligations.FrameIsTheNecFrame := by
  intro a c
  refine ⟨frame_length a c, rfl, rfl, fun k b v _ hb hv => ?_, frame_stop a c, frame_alternates a c⟩
  rw [← payload_toNat, List.getElem?_map] at hv
  obtain ⟨x, hx, rfl⟩ := Option.map_eq_some_iff.1 hv
  rw [← bitSpace_getLsbD]
  exact frame_bit hx hb

/-! ## Durations: a list lasts as many ticks as it has samples at one sample a tick -/

/-- A configuration at one sample a tick: 2 MHz, with the compensation factor 1 (42_carrier_synth.md R151). -/
def GenConfig.perTick (cfg : GenConfig) : GenConfig := { cfg with comp := 1000, sampleHz := 2000000 }

theorem sampleCount_perTick (cfg : GenConfig) (ticks : Nat) : sampleCount cfg.perTick ticks = ticks := by
  change ticks * 1000 * 2000000 / 2000000000 = ticks
  omega

theorem ticks_sum_eq (cfg : GenConfig) (segs : List Segment) :
    (segs.map fun g => g.ticks).sum = totalSamples cfg.perTick segs := by
  simp only [totalSamples, sampleCount_perTick]

/-- The ticks of one gapped frame, by the sample count of 43_assembler.md R182. -/
theorem frameSamples_perTick (cfg : GenConfig) : frameSamples cfg.perTick = 136125 + 2 * cfg.gapUs.toNat := by
  have hcount : ∀ ticks, countOf cfg.perTick ticks = ticks := sampleCount_perTick cfg
  simp only [frameSamples, hcount]
  rfl

/-- Settles O24: a gapped frame lasts its gap and 136125 ticks. -/
theorem everyFrameLastsTheSame : Obligations.EveryFrameLastsTheSame := by
  intro a c
  have htotal := gappedFrame_total GenConfig.reset.perTick a c
  rw [frameSamples_perTick, ← ticks_sum_eq, List.map_append, List.sum_append] at htotal
  exact Nat.add_right_cancel htotal

theorem repeatedFrames_ticks (a c : Byte) (cfg : GenConfig) {rep : Nat} (h : 0 < rep) :
    ((repeatedFrames a c (gapSegment cfg) rep).map fun g => g.ticks).sum = rep * (136125 + 2 * cfg.gapUs.toNat) := by
  rw [ticks_sum_eq cfg, ← frameSamples_perTick]
  exact repeatedFrames_total cfg.perTick a c h

/-! ## ENCFRAME and ENCREP, case by case (41_timing_model.md R132, R133; 20_memory.md R60) -/

section Encode

variable {s : State}

theorem exec_encframe_noGap (hgap : s.cfg.gapUs = 0) : exec .encframe s = .next { s with status := 0x26 } := if_pos hgap

theorem exec_encframe_overCap (hgap : s.cfg.gapUs ≠ 0) (hcap : s.params.segCap.val < 68) :
    exec .encframe s = .refused .segCapacity := (if_neg hgap).trans (if_pos hcap)

theorem exec_encframe_fits (hgap : s.cfg.gapUs ≠ 0) (hcap : 68 ≤ s.params.segCap.val) :
    exec .encframe s = .next
      { s with seg := frame s.addr s.cmdb ++ [gapSegment s.cfg], seglen := 68, status := 0x02 } := by
  have hlen : lengthReg (frame s.addr s.cmdb ++ [gapSegment s.cfg]).length = 68 := by simp [frame_length, lengthReg]
  rw [← hlen]
  exact (if_neg hgap).trans (if_neg hcap.not_gt)

theorem exec_encrep_illegal (h : s.cfg.rep = 0 ∨ s.cfg.gapUs = 0) : exec .encrep s = .next { s with status := 0x26 } :=
  if_pos h

theorem exec_encrep_overCap (hrep : s.cfg.rep ≠ 0) (hgap : s.cfg.gapUs ≠ 0)
    (hcap : s.params.segCap.val < 68 * s.cfg.rep.toNat) : exec .encrep s = .refused .segCapacity :=
  (if_neg (not_or.2 ⟨hrep, hgap⟩)).trans (if_pos hcap)

theorem exec_encrep_fits (hrep : s.cfg.rep ≠ 0) (hgap : s.cfg.gapUs ≠ 0)
    (hcap : 68 * s.cfg.rep.toNat ≤ s.params.segCap.val) :
    exec .encrep s = .next
      { s with
        seg := repeatedFrames s.addr s.cmdb (gapSegment s.cfg) s.cfg.rep.toNat
        seglen := lengthReg (68 * s.cfg.rep.toNat)
        status := 0x02 } := by
  rw [← repeatedFrames_length s.addr s.cmdb (gapSegment s.cfg) (toNat_pos_of_ne_zero hrep)]
  exact (if_neg (not_or.2 ⟨hrep, hgap⟩)).trans (if_neg hcap.not_gt)

end Encode

/-- Entry `j` of frame `r` of ENCREP's list, the gap being entry 67. -/
theorem repeatedFrames_getElem? (a c : Byte) (gap : Segment) {rep r j : Nat} (hr : r < rep) (hj : j < 68) :
    (repeatedFrames a c gap rep)[68 * r + j]? = (frame a c ++ [gap])[j]? := by
  rw [← repeatedFrames_block a c gap hr, List.getElem?_take_of_lt hj, List.getElem?_drop]

theorem repeatedFrames_one (a c : Byte) (gap : Segment) : repeatedFrames a c gap 1 = frame a c ++ [gap] := by
  simp [repeatedFrames_eq]

/-- Settles O25: the three cases of ENCFRAME. -/
theorem encframeWritesOneFrame : Obligations.EncframeWritesOneFrame :=
  fun _ => ⟨exec_encframe_fits, exec_encframe_noGap, exec_encframe_overCap⟩

/-- Settles O26: the three cases of ENCREP, and the places in its list. -/
theorem encrepWritesRepeatedFrames : Obligations.EncrepWritesRepeatedFrames := by
  refine fun s => ⟨fun hrep hgap hcap => ?_, exec_encrep_illegal, exec_encrep_overCap⟩
  refine ⟨_, _, exec_encrep_fits hrep hgap hcap, repeatedFrames_length _ _ _ (toNat_pos_of_ne_zero hrep),
    lengthReg_toNat (hcap.trans (cap_le _)), fun r hr => ⟨fun j hj => ?_, ?_⟩⟩
  · rw [repeatedFrames_getElem? _ _ _ hr (by omega), List.getElem?_append_left (by rwa [frame_length])]
  · rw [repeatedFrames_getElem? _ _ _ hr (by omega), List.getElem?_append_right (by rw [frame_length]), frame_length]
    rfl

/-- Settles O28: ENCFRAME's three cases are ENCREP's at REPEAT = 1. -/
theorem encframeIsEncrepOnce : Obligations.EncframeIsEncrepOnce := by
  intro s
  have hone : (1 : Word) ≠ 0 := by decide
  by_cases hgap : s.cfg.gapUs = 0
  · rw [exec_encframe_noGap hgap]
    exact exec_encrep_illegal (.inr hgap)
  rcases Nat.lt_or_ge s.params.segCap.val 68 with hcap | hcap
  · rw [exec_encframe_overCap hgap hcap]
    exact exec_encrep_overCap hone hgap hcap
  · rw [exec_encframe_fits hgap hcap, ← repeatedFrames_one]
    exact exec_encrep_fits hone hgap hcap

/-! ## The shape of SEG (41_timing_model.md R131 to R133, 10_state.md R35) -/

theorem segShape_of_seg_eq {s t : State} (h : t.seg = s.seg) (hs : s.segShape) : t.segShape := by
  unfold State.segShape at *
  rwa [h]

theorem segShape_of_repeatedFrames {t : State} {a c : Byte} {cfg : GenConfig} {rep : Nat} (hrep : 0 < rep)
    (hgap : cfg.gapUs ≠ 0) (h : t.seg = repeatedFrames a c (gapSegment cfg) rep) : t.segShape := by
  have hlen := repeatedFrames_length a c (gapSegment cfg) hrep
  unfold State.segShape
  rw [h]
  refine ⟨by omega, ⟨a, c, cfg.gapUs.toNat, toNat_pos_of_ne_zero hgap, cfg.gapUs.isLt, fun r hr => ?_⟩, fun j hj => ?_⟩
  · exact repeatedFrames_block a c (gapSegment cfg) (by omega)
  · exact repeatedFrames_alternates a c rfl hrep j _ (List.getElem?_eq_getElem _)

/-- Settles O27: over SEG_CAP there is no next state, else SEG is ENCREP's list. -/
theorem encrepAlternatesAndLasts : Obligations.EncrepAlternatesAndLasts := by
  intro s t hrep hgap h
  have hpos := toNat_pos_of_ne_zero hrep
  rcases Nat.lt_or_ge s.params.segCap.val (68 * s.cfg.rep.toNat) with hcap | hcap
  · rw [exec_encrep_overCap hrep hgap hcap] at h
    cases h
  · rw [exec_encrep_fits hrep hgap hcap] at h
    cases h
    exact ⟨segShape_of_repeatedFrames hpos hgap rfl, repeatedFrames_ticks _ _ _ hpos⟩

theorem generateWrites_seg {m : Modulation} {s u : State} (hw : GenerateWrites m s u) :
    u.seg = repeatedFrames s.addr s.cmdb (gapSegment s.cfg) s.cfg.rep.toNat := by
  obtain ⟨-, segs, rfl, -, l, r, -, -, rfl⟩ := hw
  rfl

/-- What a command writes to SEG, if anything, is gapped frames: ENCFRAME one of them, the others REPEAT of them. -/
theorem commandWrites_segShape {i : Instr} {s u : State} (hs : s.segShape) (hw : CommandWrites i s u) : u.segShape := by
  cases i with
  | encframe =>
    obtain ⟨hgap, -, segs, rfl, rfl⟩ := hw
    exact segShape_of_repeatedFrames Nat.one_pos hgap (repeatedFrames_one _ _ _).symm
  | encrep =>
    obtain ⟨hrep, hgap, -, segs, rfl, rfl⟩ := hw
    exact segShape_of_repeatedFrames (toNat_pos_of_ne_zero hrep) hgap rfl
  | generate =>
    obtain ⟨m, -, hrep, hgap, hw⟩ := hw
    exact segShape_of_repeatedFrames (toNat_pos_of_ne_zero hrep) hgap (generateWrites_seg hw)
  | genword =>
    obtain ⟨m, -, hrep, hgap, hw⟩ := hw
    have hseg := generateWrites_seg hw
    exact segShape_of_repeatedFrames (toNat_pos_of_ne_zero hrep) hgap hseg
  | nop | hexclr | decodehex | fields | pack | render | assemble | towav =>
    have hsame : Destination.segments.Same s u := commandWrites_same hw rfl
    exact segShape_of_seg_eq (Prod.mk.inj hsame).1 hs

theorem exec_segShape {i : Instr} {s t : State} (hs : s.segShape) (h : exec i s = .next t) : t.segShape := by
  rcases exec_next_cases h with ⟨k, rfl, -⟩ | ⟨u, rfl, hw⟩
  · exact hs
  · exact segShape_of_seg_eq (State.setStatus_seg u _) (commandWrites_segShape hs hw)

theorem runCommand_segShape {d : Word} {s t : State} (hs : s.segShape) (h : runCommand d s = .next t) : t.segShape := by
  obtain ⟨u, rfl, hend⟩ := runCommand_next h
  refine segShape_of_seg_eq (State.openBusyWindow_seg u) ?_
  rcases hend with ⟨i, -, hi⟩ | ⟨-, rfl⟩
  · exact exec_segShape (s := s.setOp d) hs hi
  · exact hs

theorem writeSlot_seg (r : Slot) (d : Word) (s : State) : (writeSlot r d s).seg = s.seg := by
  cases r <;> rfl

theorem hardReset_segShape (s : State) : s.hardReset.segShape := by
  obtain ⟨-, hreset, -⟩ := resetMeetsTheInvariant
  exact segShape_of_seg_eq (State.hardReset_seg s) hreset

/-- Settles O53: of all events, a command and a reset alone write SEG. -/
theorem everyStepKeepsWholeFrames : Obligations.EveryStepKeepsWholeFrames := by
  intro s t hs h
  have htake : ∀ rest, (s.takeEvent rest).segShape := fun _ => hs
  rcases step_next_cases h with ⟨-, rfl⟩ | ⟨rest, -, rfl⟩ | ⟨a, rest, -, -, rfl⟩ | ⟨a, rest, -, -, -, rfl⟩ |
    ⟨a, d, rest, -, -, -, hrun⟩ | ⟨a, d, rest, r, -, -, -, -, rfl⟩ | ⟨a, d, rest, -, -, -, rfl⟩
  · exact hs
  · exact hardReset_segShape _
  · obtain ⟨v, n, hread⟩ := answerRead_eq a (s.takeEvent rest)
    rw [hread]; exact hs
  · exact hs
  · exact runCommand_segShape (htake rest) hrun
  · exact segShape_of_seg_eq (writeSlot_seg r d _) (htake rest)
  · exact htake rest

end Sys2Proof.Machine

/-! # Family 42_carrier_synth: sample counts, the carrier phase, the samples of each mode, RENDER -/

namespace Sys2Proof.Machine

/-! ## Rendered channels, sample by sample (42_carrier_synth.md R159, 43_assembler.md R180) -/

theorem channelCount_eq_two {mode : BitVec 2} {m : Modulation} (hm : modulationOf mode = some m) :
    channelCount m = 2 ↔ mode = 0 := by
  rcases modulationOf_cases hm with ⟨rfl, rfl⟩ | ⟨rfl, rfl⟩ | ⟨rfl, rfl⟩ <;> decide

theorem channelCount_of_mode {mode : BitVec 2} {m : Modulation} (hm : modulationOf mode = some m) :
    channelCount m = if mode = 0 then 2 else 1 := by
  rcases modulationOf_cases hm with ⟨rfl, rfl⟩ | ⟨rfl, rfl⟩ | ⟨rfl, rfl⟩ <;> rfl

theorem renderLeft_getElem? (m : Modulation) {cfg : GenConfig} {g : Segment} {i : Nat}
    (hi : i < sampleCount cfg g.ticks) : (renderLeft m cfg g)[i]? = some (leftSample m g.kind cfg i) := by
  rw [renderLeft, List.getElem?_map, List.getElem?_range hi, Option.map_some]

theorem renderRight_getElem? {cfg : GenConfig} {g : Segment} {i : Nat} (hi : i < sampleCount cfg g.ticks) :
    (renderRight .stereoDiff cfg g)[i]? = some (rightSample g.kind cfg i) := by
  rw [renderRight, List.getElem?_map, List.getElem?_range hi, Option.map_some]

/-- Sample `i` of segment `j` stands at `S_j + i` of a channel that gives every segment its sample count. -/
theorem flatMap_getElem?_startOf {cfg : GenConfig} {f : Segment → List Sample}
    (hf : ∀ g, (f g).length = sampleCount cfg g.ticks) {segs : List Segment} {j i : Nat} {g : Segment}
    (hj : segs[j]? = some g) (hi : i < sampleCount cfg g.ticks) :
    (segs.flatMap f)[startOf cfg segs j + i]? = (f g)[i]? := by
  have hat := getElem?_flatMap_at f segs j i g hj ((hf g).symm ▸ hi)
  simp only [hf] at hat
  exact hat

theorem rendersTo_flatMap {cfg : GenConfig} {m : Modulation} (hm : modulationOf cfg.mode = some m)
    (segs : List Segment) :
    RendersTo cfg segs (segs.flatMap (renderLeft m cfg)) (segs.flatMap (renderRight m cfg)) := by
  refine ⟨?_, ?_, fun j g i hj hi => ⟨⟨_, ?_, leftAt_leftSample hm g.kind i⟩,
    fun hmode => ⟨_, ?_, rightAt_rightSample cfg g.kind i⟩⟩⟩
  · rw [flatMap_renderLeft_length, startOf_length]
  · simp only [flatMap_renderRight_length, channelCount_eq_two hm]
  · rw [flatMap_getElem?_startOf (renderLeft_length m cfg) hj hi, renderLeft_getElem? m hi]
  · obtain rfl : m = .stereoDiff := by rw [hmode] at hm; exact (Option.some.inj hm).symm
    have hlength : ∀ g, (renderRight .stereoDiff cfg g).length = sampleCount cfg g.ticks :=
      fun g => (renderRight_length .stereoDiff cfg g).trans (renderLeft_length .stereoDiff cfg g)
    rw [flatMap_getElem?_startOf hlength hj hi, renderRight_getElem? hi]

/-! ## RENDER (42_carrier_synth.md R160) -/

/-- A rendering within SMP_CAP replaces the sample buffer and ends normally. -/
theorem renderInto_fits {m : Modulation} {segs : List Segment} {s : State} (hm : modulationOf s.cfg.mode = some m)
    (hcap : totalSamples s.cfg segs ≤ s.params.smpCap.val) :
    ∃ l r len, renderInto m segs s = .next
        { s with smpl := l, smpr := r, smplen := len, smpch := if s.cfg.mode = 0 then 2 else 1, status := 0x02 } ∧
      len.toNat = totalSamples s.cfg segs ∧ RendersTo s.cfg segs l r := by
  refine ⟨_, _, lengthReg (totalSamples s.cfg segs), ?_, lengthReg_toNat (hcap.trans (cap_le _)),
    rendersTo_flatMap hm segs⟩
  rw [renderInto, if_neg (Nat.not_lt.2 hcap), normalEnd_eq, State.setBuffer, channelCount_of_mode hm,
    flatMap_renderLeft_length]

theorem exec_render_eq_renderInto {m : Modulation} {idx : Nat} {g : Segment} {s : State}
    (hstyle : renderStyle s.cfg = some m) (hg : s.validSegs[idx]? = some g) :
    exec (.render idx) s = renderInto m [g] s := by
  simp only [exec, execRender, hstyle, hg]

/-- Settles O36: RENDER is the rendering of the list of one segment. -/
theorem renderWritesOneSegment : Obligations.RenderWritesOneSegment := by
  intro s idx g hlegal hidx hg hcap
  obtain ⟨m, hstyle, hm⟩ := renderLegal_style hlegal
  have htotal : totalSamples s.cfg [g] = countOf s.cfg g.ticks := List.sum_singleton
  have hvalid : s.validSegs[idx]? = some g := (List.getElem?_take_of_lt hidx).trans hg
  rw [exec_render_eq_renderInto hstyle hvalid, ← htotal]
  exact renderInto_fits hm (htotal.trans_le hcap)

/-! ## Sample counts (42_carrier_synth.md R151, R152) -/

/-- One floor division, without the division. -/
theorem sampleCount_bounds (cfg : GenConfig) (ticks : Nat) :
    sampleCount cfg ticks * 2000000000 ≤ ticks * cfg.comp.toNat * cfg.sampleHz.toNat ∧
      ticks * cfg.comp.toNat * cfg.sampleHz.toNat < sampleCount cfg ticks * 2000000000 + 2000000000 :=
  ⟨Nat.div_mul_le_self _ _, Nat.lt_div_mul_add (by decide)⟩

/-- The bounds of every segment of a list, summed. -/
theorem totalSamples_bounds (cfg : GenConfig) (segs : List Segment) :
    totalSamples cfg segs * 2000000000 ≤
        (segs.map fun g => g.ticks).sum * cfg.comp.toNat * cfg.sampleHz.toNat ∧
      (segs.map fun g => g.ticks).sum * cfg.comp.toNat * cfg.sampleHz.toNat + segs.length ≤
        (totalSamples cfg segs + segs.length) * 2000000000 := by
  induction segs with
  | nil => simp [totalSamples]
  | cons g segs ih =>
    have htotal : totalSamples cfg (g :: segs) = sampleCount cfg g.ticks + totalSamples cfg segs := List.sum_cons
    obtain ⟨hlo, hhi⟩ := sampleCount_bounds cfg g.ticks
    obtain ⟨ihlo, ihhi⟩ := ih
    rw [htotal, List.map_cons, List.sum_cons, List.length_cons]
    constructor <;> linarith

/-- Settles O29: dividing the summed bounds by 2000000000. -/
theorem floorPerSegmentDrift : Obligations.FloorPerSegmentDrift := by
  intro cfg segs
  obtain ⟨hlo, hhi⟩ := totalSamples_bounds cfg segs
  refine ⟨(Nat.le_div_iff_mul_le (by decide)).2 hlo, fun hne => (Nat.div_lt_iff_lt_mul (by decide)).2 ?_⟩
  have hpos := List.length_pos_of_ne_nil hne
  omega

/-! ## The carrier phase (42_carrier_synth.md R153) -/

section Phase

variable (cfg : GenConfig) (i : Nat)

theorem phaseNum_zero : phaseNum cfg 0 = 0 := by
  rw [phaseNum, Nat.zero_mul, Nat.zero_mod]

theorem phaseNum_succ : phaseNum cfg (i + 1) = (phaseNum cfg i + cfg.carrierHz.toNat) % cfg.sampleHz.toNat := by
  rw [phaseNum, phaseNum, Nat.succ_mul, Nat.mod_add_mod]

theorem phaseNum_add_sampleHz : phaseNum cfg (i + cfg.sampleHz.toNat) = phaseNum cfg i := by
  rw [phaseNum, phaseNum, Nat.add_mul, Nat.add_mul_mod_self_left]

variable {cfg}

theorem phaseNum_lt (h : cfg.sampleHz ≠ 0) : phaseNum cfg i < cfg.sampleHz.toNat :=
  Nat.mod_lt _ (toNat_pos_of_ne_zero h)

theorem carrierOn_of_full_duty (h : cfg.sampleHz ≠ 0) (hduty : cfg.duty = 1000) : carrierOn cfg i = true := by
  rw [carrierOn_iff, OnAt, hduty, Nat.mul_comm]
  exact Nat.mul_lt_mul_of_pos_left (phaseNum_lt i h) (by decide)

theorem carrierOn_of_zero_duty (hduty : cfg.duty = 0) : carrierOn cfg i = false := by
  rw [← Bool.not_eq_true, carrierOn_iff, OnAt, hduty]
  simp

end Phase

/-- Settles O30: the phase numerator is `i * CARRIER_HZ` modulo SAMPLE_HZ. -/
theorem carrierPhase : Obligations.CarrierPhase :=
  fun cfg h i => ⟨phaseNum_lt i h, phaseNum_zero cfg, phaseNum_succ cfg i, phaseNum_add_sampleHz cfg i,
    carrierOn_of_full_duty i h, carrierOn_of_zero_duty i⟩

/-! ## The samples of each mode (42_carrier_synth.md R154 to R158) -/

section Samples

variable (cfg : GenConfig) (i : Nat)

theorem leftSample_stereoDiff_pulse :
    leftSample .stereoDiff .pulse cfg i = if OnAt cfg i then amplitude cfg else -amplitude cfg := by
  simp only [leftSample, carrierOn_iff]

theorem leftSample_stereoDiff_space :
    leftSample .stereoDiff .space cfg i = if HighAt cfg i then idleAmplitude cfg else -idleAmplitude cfg := by
  simp only [leftSample, carrierHigh_iff]

theorem leftSample_monoSquare_pulse :
    leftSample .monoSquare .pulse cfg i = if OnAt cfg i then amplitude cfg else 0 := by
  simp only [leftSample, carrierOn_iff]

theorem leftSample_monoSine_pulse : leftSample .monoSine .pulse cfg i =
    amplitude cfg * (1 + sine ((phaseAt cfg i : Rat) / (cfg.sampleHz.toNat : Rat))) / 2 := rfl

theorem rightSample_pulse : rightSample .pulse cfg i = -leftSample .stereoDiff .pulse cfg i := by
  simp only [rightSample, leftSample]
  split
  · rfl
  · rw [neg_neg]

theorem rightSample_space : rightSample .space cfg i = leftSample .stereoDiff .space cfg i := rfl

theorem amplitude_nonneg : 0 ≤ amplitude cfg := div_nonneg (Nat.cast_nonneg _) (by norm_num)

theorem amplitude_congr {c d : GenConfig} (h : c.amp = d.amp) : amplitude c = amplitude d := congrArg perMille h

end Samples

/-- A square wave of amplitude `a` is `a` times its sign. -/
theorem ite_neg_eq_sign_mul (p : Prop) [Decidable p] (a : Rat) :
    (if p then a else -a) = (if p then 1 else -1) * a := by
  split
  · rw [one_mul]
  · rw [neg_one_mul]

/-- Settles O31: the left channel is the bipolar square wave, and the right its negative, so the drive is twice it. -/
theorem stereoPulseIsBipolar : Obligations.StereoPulseIsBipolar := by
  intro cfg i
  have hleft := (leftSample_stereoDiff_pulse cfg i).trans (ite_neg_eq_sign_mul _ _)
  refine ⟨hleft, rightSample_pulse cfg i, ?_⟩
  rw [rightSample_pulse, hleft, amplitude, perMille]
  split <;> ring

/-- Settles O32: the left channel is the square wave that reads `hi(i)`, and the right is the same. -/
theorem stereoSpaceIsBalanced : Obligations.StereoSpaceIsBalanced :=
  fun cfg i => ⟨(leftSample_stereoDiff_space cfg i).trans (ite_neg_eq_sign_mul _ _), rightSample_space cfg i⟩

/-- Settles O33: a Pulse reads `on(i)`, a Space nothing. -/
theorem monoSquareAlternates : Obligations.MonoSquareAlternates :=
  fun cfg i => ⟨leftSample_monoSquare_pulse cfg i, rfl⟩

/-- Settles O34: the sine lies in [-1, 1], so its affine image lies in [0, A]; it reads the phase and A alone. -/
theorem monoSineStaysBelowTheAmplitude : Obligations.MonoSineStaysBelowTheAmplitude := by
  intro cfg i
  obtain ⟨hlo, hhi⟩ := sineSample_range (amplitude_nonneg cfg) (sine_range (phaseAt cfg i / cfg.sampleHz.toNat))
  refine ⟨hlo, hhi, rfl, fun other j hamp hphase => ?_⟩
  rw [leftSample_monoSine_pulse, leftSample_monoSine_pulse, hphase, amplitude_congr hamp]

/-- Settles O35: AMP and AMP_IDLE are at most 1000 per-mille, on both channels. -/
theorem samplesStayInRange : Obligations.SamplesStayInRange := by
  rintro cfg m kind i x hlegal (rfl | rfl)
  · exact leftSample_range hlegal m kind i
  · exact rightSample_range hlegal kind i

end Sys2Proof.Machine

/-! # Family 43_assembler: ASSEMBLE, GENERATE, GENWORD -/

namespace Sys2Proof.Machine

section Composite

variable {m : Modulation} {s : State}

/-! ## The three commands, by the style their checks give (43_assembler.md R181, R183, R184) -/

theorem exec_assemble_eq_renderInto (h : renderStyle s.cfg = some m) :
    exec .assemble s = renderInto m s.validSegs s := by
  simp only [exec, execAssemble, h]

theorem exec_generate_eq_generateInto (h : generateStyle s.cfg = some m) : exec .generate s = generateInto m s := by
  simp only [exec, execGenerate, h]

theorem exec_genword_eq_generateInto (h : generateStyle s.cfg = some m) :
    exec .genword s = generateInto m (s.setAddrCmdb (addressField s.word) (commandField s.word)) := by
  simp only [exec, execGenword, h]

theorem exec_genword_illegal (h : generateStyle s.cfg = none) : exec .genword s = raise .invalidArgument s := by
  simp only [exec, execGenword, h]

theorem generateLegal_style {cfg : GenConfig} (hlegal : RenderLegal cfg) (hrep : cfg.rep ≠ 0) (hgap : cfg.gapUs ≠ 0) :
    ∃ m, generateStyle cfg = some m ∧ modulationOf cfg.mode = some m := by
  obtain ⟨m, hstyle, hm⟩ := renderLegal_style hlegal
  exact ⟨m, generateStyle_eq_some.2 ⟨hstyle, hrep, hgap⟩, hm⟩

/-- The checks of GENERATE, which are GENWORD's too, give a style unless one fails. -/
theorem generateStyle_of_not_failsCheck (h : ¬FailsCheck .generate s) : ∃ m, generateStyle s.cfg = some m :=
  Option.ne_none_iff_exists'.1 fun hnone => h (generateStyle_eq_none.1 hnone)

/-! ## GENERATE's body (43_assembler.md R182, R183) -/

theorem generateInto_overCap (hcap : s.params.segCap.val < 68 * s.cfg.rep.toNat) :
    generateInto m s = .refused .segCapacity := if_pos hcap

theorem generateInto_eq_renderInto (hcap : 68 * s.cfg.rep.toNat ≤ s.params.segCap.val) :
    generateInto m s =
      renderInto m (repeatedFrames s.addr s.cmdb (gapSegment s.cfg) s.cfg.rep.toNat)
        (s.setSeg (repeatedFrames s.addr s.cmdb (gapSegment s.cfg) s.cfg.rep.toNat)) := if_neg hcap.not_gt

/-- Within both capacities, SEG and the sample buffer are replaced and the command ends normally. -/
theorem generateInto_fits (hm : modulationOf s.cfg.mode = some m) (hrep : s.cfg.rep ≠ 0)
    (hseg : 68 * s.cfg.rep.toNat ≤ s.params.segCap.val)
    (hsmp : s.cfg.rep.toNat * frameSamples s.cfg ≤ s.params.smpCap.val) :
    ∃ segs slen l r len, generateInto m s = .next
        { s with
          seg := segs, seglen := slen, smpl := l, smpr := r, smplen := len
          smpch := if s.cfg.mode = 0 then 2 else 1
          status := 0x02 } ∧
      segs = repeatedFrames s.addr s.cmdb ⟨.space, 2 * s.cfg.gapUs.toNat⟩ s.cfg.rep.toNat ∧
      slen.toNat = 68 * s.cfg.rep.toNat ∧ len.toNat = s.cfg.rep.toNat * frameSamples s.cfg ∧
      RendersTo s.cfg segs l r := by
  have hpos := toNat_pos_of_ne_zero hrep
  have hlength := repeatedFrames_length s.addr s.cmdb (gapSegment s.cfg) hpos
  have htotal := repeatedFrames_total s.cfg s.addr s.cmdb hpos
  rw [generateInto_eq_renderInto hseg, ← hlength, ← htotal]
  obtain ⟨l, r, len, hnext, hlen, hrenders⟩ := renderInto_fits (s := s.setSeg _) hm (htotal.trans_le hsmp)
  exact ⟨_, _, l, r, len, hnext, rfl, lengthReg_toNat (hlength.trans_le (hseg.trans (cap_le _))), hlen, hrenders⟩

/-! ## STATUS is not read, WORD is not written (10_state.md R34) -/

theorem renderInto_setStatus (segs : List Segment) (v : BitVec 6) :
    renderInto m segs (s.setStatus v) = renderInto m segs s := rfl

theorem generateInto_setStatus (v : BitVec 6) : generateInto m (s.setStatus v) = generateInto m s := rfl

theorem renderInto_setWord (segs : List Segment) (w : Word) :
    renderInto m segs (s.setWord w) = onNext (State.setWord w) (renderInto m segs s) := by
  rw [renderInto, renderInto, apply_ite (onNext (State.setWord w))]
  rfl

theorem generateInto_setWord (w : Word) :
    generateInto m (s.setWord w) = onNext (State.setWord w) (generateInto m s) := by
  rcases Nat.lt_or_ge s.params.segCap.val (68 * s.cfg.rep.toNat) with hcap | hcap
  · rw [generateInto_overCap hcap, onNext_refused]
    exact generateInto_overCap hcap
  · rw [generateInto_eq_renderInto hcap, ← renderInto_setWord]
    exact generateInto_eq_renderInto hcap

theorem setAddrCmdb_setWord (a c : Byte) (w : Word) :
    (s.setWord w).setAddrCmdb a c = (s.setAddrCmdb a c).setWord w := rfl

/-! ## ASSEMBLE after ENCREP (43_assembler.md R183) -/

/-- ASSEMBLE after a command that wrote SEG renders the whole list written. -/
theorem exec_assemble_setSeg {segs : List Segment} (hstyle : renderStyle s.cfg = some m)
    (hcap : segs.length ≤ s.params.segCap.val) (v : BitVec 6) :
    exec .assemble ((s.setSeg segs).setStatus v) = renderInto m segs (s.setSeg segs) := by
  have hvalid : ((s.setSeg segs).setStatus v).validSegs = segs := validSegs_setSeg hcap
  rw [exec_assemble_eq_renderInto (s := (s.setSeg segs).setStatus v) hstyle, hvalid, renderInto_setStatus]

end Composite

/-! ## The obligations -/

/-- Settles O37: every entry of SEG is valid, and its rendering fits. -/
theorem assembleConcatenatesSegments : Obligations.AssembleConcatenatesSegments := by
  intro s hwf hlegal hcap
  obtain ⟨m, hstyle, hm⟩ := renderLegal_style hlegal
  rw [startOf_length] at hcap ⊢
  rw [exec_assemble_eq_renderInto hstyle, validSegs_of_wf hwf]
  exact renderInto_fits hm hcap

/-- Settles O38: GENERATE is its body, and both results fit. -/
theorem generateWritesListAndBuffer : Obligations.GenerateWritesListAndBuffer := by
  intro s hlegal hrep hgap hseg hsmp
  obtain ⟨m, hstyle, hm⟩ := generateLegal_style hlegal hrep hgap
  rw [exec_generate_eq_generateInto hstyle]
  exact generateInto_fits hm hrep hseg hsmp

/-- Settles O39: over SEG_CAP both are refused; else ASSEMBLE finds the list in SEG, all of it valid. -/
theorem generateIsEncrepThenAssemble : Obligations.GenerateIsEncrepThenAssemble := by
  intro s hchecks
  obtain ⟨m, hgenerate⟩ := generateStyle_of_not_failsCheck hchecks
  obtain ⟨hstyle, hrep, hgap⟩ := generateStyle_eq_some.1 hgenerate
  rw [exec_generate_eq_generateInto hgenerate]
  rcases Nat.lt_or_ge s.params.segCap.val (68 * s.cfg.rep.toNat) with hcap | hcap
  · rw [exec_encrep_overCap hrep hgap hcap, generateInto_overCap hcap]
    exact ⟨nofun, fun _ => id⟩
  · have hlength := repeatedFrames_length s.addr s.cmdb (gapSegment s.cfg) (toNat_pos_of_ne_zero hrep)
    rw [exec_encrep_fits hrep hgap hcap, generateInto_eq_renderInto hcap, ← hlength]
    refine ⟨fun t ht => ?_, nofun⟩
    obtain rfl : (s.setSeg _).setStatus statusNormalEnd = t := Host.Outcome.next.inj ht
    exact exec_assemble_setSeg hstyle (hlength.trans_le hcap) statusNormalEnd

/-- Settles O40: GENWORD is GENERATE's body once ADDR and CMDB are WORD's fields, and both results fit. -/
theorem genwordWritesFieldsListAndBuffer : Obligations.GenwordWritesFieldsListAndBuffer := by
  intro s hlegal hrep hgap hseg hsmp
  obtain ⟨m, hstyle, hm⟩ := generateLegal_style hlegal hrep hgap
  have haddr : (addressField s.word).toNat = s.word.toNat / 2 ^ 24 := by
    rw [addressField, toNat_extractLsb'_byte]
    omega
  have hcmdb : (commandField s.word).toNat = s.word.toNat / 2 ^ 8 % 2 ^ 8 := toNat_extractLsb'_byte s.word 8
  rw [exec_genword_eq_generateInto hstyle]
  obtain ⟨segs, slen, l, r, len, hnext, hbuffer⟩ :=
    generateInto_fits (s := s.setAddrCmdb (addressField s.word) (commandField s.word)) hm hrep hseg hsmp
  exact ⟨_, _, segs, slen, l, r, len, hnext, haddr, hcmdb, hbuffer⟩

/-- Settles O41: FIELDS changes STATUS besides ADDR and CMDB, which GENERATE does not read; and GENWORD reads no field
of WORD but the two. -/
theorem genwordIsFieldsThenGenerate : Obligations.GenwordIsFieldsThenGenerate := by
  constructor
  · intro s t hchecks ht
    obtain ⟨m, hstyle⟩ := generateStyle_of_not_failsCheck (s := s) hchecks
    obtain rfl : (s.setAddrCmdb (addressField s.word) (commandField s.word)).setStatus statusNormalEnd = t :=
      Host.Outcome.next.inj ((exec_fields s).symm.trans ht)
    rw [exec_genword_eq_generateInto hstyle, ← generateInto_setStatus statusNormalEnd]
    exact Eq.symm (exec_generate_eq_generateInto hstyle)
  · intro s w haddr hcmdb
    change exec .genword (s.setWord w) = _
    cases hstyle : generateStyle s.cfg with
    | none =>
      rw [exec_genword_illegal hstyle]
      exact exec_genword_illegal hstyle
    | some m =>
      refine Eq.trans (exec_genword_eq_generateInto hstyle) ?_
      rw [State.setWord_word, haddr, hcmdb, setAddrCmdb_setWord, generateInto_setWord,
        exec_genword_eq_generateInto hstyle]

end Sys2Proof.Machine

/-! # Family 44_wav: the quantizer, the WAV stream, TOWAV -/

namespace Sys2Proof.Machine

/-! ## Rounding (44_wav.md R201) -/

theorem roundHalfUp_bounds (x : Rat) : (roundHalfUp x : Rat) ≤ x + 1 / 2 ∧ x - 1 / 2 < roundHalfUp x := by
  obtain ⟨hle, hlt⟩ := (roundHalfUp_eq_iff x _).1 rfl
  exact ⟨hle, by linarith⟩

theorem roundHalfUp_mono {x y : Rat} (h : x ≤ y) : roundHalfUp x ≤ roundHalfUp y :=
  Int.floor_mono (add_le_add_left h _)

theorem roundHalfUp_intCast (n : Int) : roundHalfUp n = n :=
  (roundHalfUp_eq_iff _ n).2 ⟨by linarith, by linarith⟩

theorem roundHalfUp_half (n : Int) : roundHalfUp (n + 1 / 2) = n + 1 := by
  refine (roundHalfUp_eq_iff _ _).2 ⟨?_, ?_⟩ <;> push_cast <;> linarith

/-! ## The quantizer (44_wav.md R200) -/

section Quantize

variable {x : Rat}

theorem quantize_of_one_le (h : 1 ≤ x) : quantize x = 32767 := by
  have hclamp : min 1 (max (-1) x) = 1 := min_eq_left (h.trans (le_max_right _ _))
  rw [quantize, hclamp, if_neg (by norm_num), one_mul]
  exact roundHalfUp_intCast 32767

theorem quantize_of_le_neg_one (h : x ≤ -1) : quantize x = -32768 := by
  have hclamp : min 1 (max (-1) x) = -1 := by rw [max_eq_left h]; norm_num
  rw [quantize, hclamp, if_pos (by norm_num), neg_one_mul]
  exact roundHalfUp_intCast (-32768)

theorem quantize_of_neg (hlo : -1 ≤ x) (hneg : x < 0) : quantize x = roundHalfUp (x * 32768) := by
  have hclamp : min 1 (max (-1) x) = x := by rw [max_eq_right hlo, min_eq_right (by linarith)]
  rw [quantize, hclamp, if_pos hneg]

theorem quantize_of_nonneg (hnonneg : 0 ≤ x) (hhi : x ≤ 1) : quantize x = roundHalfUp (x * 32767) := by
  have hclamp : min 1 (max (-1) x) = x := by rw [max_eq_right (by linarith), min_eq_right hhi]
  rw [quantize, hclamp, if_neg hnonneg.not_gt]

theorem quantize_mono {y : Rat} (h : x ≤ y) : quantize x ≤ quantize y := by
  have hclamp : min 1 (max (-1) x) ≤ min 1 (max (-1) y) := min_le_min_left _ (max_le_max_left _ h)
  apply roundHalfUp_mono
  split_ifs <;> linarith

/-- A fixed point below zero: the integer nearest to the value scaled by 32768. -/
theorem quantize_eq_of_neg {n : Int}
    (h : (-1 ≤ x ∧ x < 0) ∧ (n : Rat) ≤ x * 32768 + 1 / 2 ∧ x * 32768 + 1 / 2 < n + 1) : quantize x = n := by
  obtain ⟨⟨hlo, hneg⟩, hnear⟩ := h
  rw [quantize_of_neg hlo hneg, roundHalfUp_eq_iff]
  exact hnear

/-- A fixed point from zero up: the integer nearest to the value scaled by 32767. -/
theorem quantize_eq_of_nonneg {n : Int}
    (h : (0 ≤ x ∧ x ≤ 1) ∧ (n : Rat) ≤ x * 32767 + 1 / 2 ∧ x * 32767 + 1 / 2 < n + 1) : quantize x = n := by
  obtain ⟨⟨hnonneg, hhi⟩, hnear⟩ := h
  rw [quantize_of_nonneg hnonneg hhi, roundHalfUp_eq_iff]
  exact hnear

end Quantize

/-- Settles O43: the bounds of the floor; a half is the upper end of its interval. -/
theorem roundHalfGoesUp : Obligations.RoundHalfGoesUp := by
  refine ⟨roundHalfUp_bounds, roundHalfUp_half, ?_, ?_, ?_, ?_, quantize_eq_of_nonneg (by norm_num)⟩
  all_goals
    rw [roundHalfUp_eq_iff]
    norm_num

/-- Settles O44: each value by its branch of the quantizer. -/
theorem quantizerFixedPoints : Obligations.QuantizerFixedPoints :=
  ⟨quantize_of_one_le le_rfl, quantize_of_le_neg_one le_rfl, quantize_eq_of_nonneg (by norm_num),
    quantize_of_one_le (by norm_num), quantize_of_le_neg_one (by norm_num), quantize_eq_of_nonneg (by norm_num),
    quantize_eq_of_neg (by norm_num), quantize_eq_of_nonneg (by norm_num), quantize_eq_of_neg (by norm_num),
    quantize_eq_of_nonneg (by norm_num), quantize_eq_of_nonneg (by norm_num), quantize_eq_of_neg (by norm_num)⟩

/-- Settles O42: a clamp and a monotone scaling, then rounding. It is not odd, as -1 and 1 show. -/
theorem quantizerRangeAndOrder : Obligations.QuantizerRangeAndOrder := by
  refine ⟨quantize_range, fun x y => quantize_mono, fun x => quantize_of_one_le, fun x => quantize_of_le_neg_one,
    fun x hlo hneg => ?_, fun x hnonneg hhi => ?_, quantize_eq_of_nonneg (by norm_num),
    quantize_eq_of_nonneg (by norm_num), quantize_eq_of_neg (by norm_num), ?_⟩
  · rw [quantize_of_neg hlo hneg]
    exact roundHalfUp_bounds _
  · rw [quantize_of_nonneg hnonneg hhi]
    exact roundHalfUp_bounds _
  · rw [quantize_of_one_le le_rfl, quantize_of_le_neg_one le_rfl]
    decide

/-! ## Fields of a byte sequence, by its slices -/

section Slices

variable {out : List Byte} {off : Nat}

theorem leField_drop (o w : Nat) : leField (out.drop off) o w = leField out (off + o) w := by
  induction w generalizing o with
  | zero => rfl
  | succ w ih => rw [leField, leField, ih, List.getElem?_drop, Nat.add_assoc]

theorem leField_take {o w k : Nat} (h : o + w ≤ k) : leField (out.take k) o w = leField out o w := by
  induction w generalizing o with
  | zero => rfl
  | succ w ih => rw [leField, leField, ih (by omega), List.getElem?_take_of_lt (by omega)]

/-- A field is read from its own bytes alone. -/
theorem leField_of_slice {w : Nat} {f : List Byte} (h : (out.drop off).take w = f) :
    leField out off w = leField f 0 w := by
  rw [← h, leField_take (Nat.zero_add w).le, leField_drop, Nat.add_zero]

theorem leField_of_half {v : BitVec 16} (h : (out.drop off).take 2 = le16 v) : leField out off 2 = v.toNat :=
  (leField_of_slice h).trans (leField_le16 v)

theorem leField_le32 (v : Word) : leField (le32 v) 0 4 = v.toNat := by
  have := v.isLt
  simp [leField, le32, Nat.shiftRight_eq_div_pow]
  omega

theorem leField_of_word {v : Word} (h : (out.drop off).take 4 = le32 v) : leField out off 4 = v.toNat :=
  (leField_of_slice h).trans (leField_le32 v)

end Slices

/-! ## The header (44_wav.md R203) -/

section Header

variable (n ch fs : Nat) (data : List Byte)

theorem wavHeader_riffTag : (wavHeader n ch fs ++ data).take 4 = [0x52, 0x49, 0x46, 0x46] := by simp [wavHeader]

theorem wavHeader_waveTags : ((wavHeader n ch fs ++ data).drop 8).take 8 =
    [0x57, 0x41, 0x56, 0x45, 0x66, 0x6D, 0x74, 0x20] := by simp [wavHeader, le32]

theorem wavHeader_dataTag : ((wavHeader n ch fs ++ data).drop 36).take 4 = [0x64, 0x61, 0x74, 0x61] := by
  simp [wavHeader, le32, le16]

theorem wavHeader_riffSize : leField (wavHeader n ch fs ++ data) 4 4 = (36 + dataLength n ch) % 2 ^ 32 := by
  have hslice : ((wavHeader n ch fs ++ data).drop 4).take 4 = le32 (BitVec.ofNat 32 (36 + dataLength n ch)) := by
    simp [wavHeader, le32]
  rw [leField_of_word hslice, BitVec.toNat_ofNat]

theorem wavHeader_formatSize : leField (wavHeader n ch fs ++ data) 16 4 = 16 := by
  have hslice : ((wavHeader n ch fs ++ data).drop 16).take 4 = le32 16 := by simp [wavHeader, le32]
  exact leField_of_word hslice

theorem wavHeader_format : leField (wavHeader n ch fs ++ data) 20 2 = 1 := by
  have hslice : ((wavHeader n ch fs ++ data).drop 20).take 2 = le16 1 := by simp [wavHeader, le32, le16]
  exact leField_of_half hslice

theorem wavHeader_channels : leField (wavHeader n ch fs ++ data) 22 2 = ch % 2 ^ 16 := by
  have hslice : ((wavHeader n ch fs ++ data).drop 22).take 2 = le16 (BitVec.ofNat 16 ch) := by
    simp [wavHeader, le32, le16]
  rw [leField_of_half hslice, BitVec.toNat_ofNat]

theorem wavHeader_rate : leField (wavHeader n ch fs ++ data) 24 4 = fs % 2 ^ 32 := by
  have hslice : ((wavHeader n ch fs ++ data).drop 24).take 4 = le32 (BitVec.ofNat 32 fs) := by
    simp [wavHeader, le32, le16]
  rw [leField_of_word hslice, BitVec.toNat_ofNat]

theorem wavHeader_byteRate : leField (wavHeader n ch fs ++ data) 28 4 = fs * 2 * ch % 2 ^ 32 := by
  have hslice : ((wavHeader n ch fs ++ data).drop 28).take 4 = le32 (BitVec.ofNat 32 (fs * 2 * ch)) := by
    simp [wavHeader, le32, le16]
  rw [leField_of_word hslice, BitVec.toNat_ofNat]

theorem wavHeader_blockAlign : leField (wavHeader n ch fs ++ data) 32 2 = 2 * ch % 2 ^ 16 := by
  have hslice : ((wavHeader n ch fs ++ data).drop 32).take 2 = le16 (BitVec.ofNat 16 (2 * ch)) := by
    simp [wavHeader, le32, le16]
  rw [leField_of_half hslice, BitVec.toNat_ofNat]

theorem wavHeader_sampleBits : leField (wavHeader n ch fs ++ data) 34 2 = 16 := by
  have hslice : ((wavHeader n ch fs ++ data).drop 34).take 2 = le16 16 := by simp [wavHeader, le32, le16]
  exact leField_of_half hslice

theorem wavHeader_dataSize : leField (wavHeader n ch fs ++ data) 40 4 = dataLength n ch % 2 ^ 32 := by
  have hslice : ((wavHeader n ch fs ++ data).drop 40).take 4 = le32 (BitVec.ofNat 32 (dataLength n ch)) := by
    simp [wavHeader, le32, le16]
  rw [leField_of_word hslice, BitVec.toNat_ofNat]

/-- A field of the PCM data, counted from the start of the stream. -/
theorem leField_wavHeader_append (o w : Nat) : leField (wavHeader n ch fs ++ data) (44 + o) w = leField data o w := by
  rw [← wavHeader_length n ch fs]
  exact leField_append_right _ _ o w

end Header

/-! ## The PCM data (44_wav.md R204) -/

theorem pcmBytes_length (x : Sample) : (pcmBytes x).length = 2 := rfl

theorem leField_pcmBytes (x : Sample) : (leField (pcmBytes x) 0 2 : Int) = quantize x % 65536 := by
  rw [pcmBytes, leField_le16, BitVec.toNat_ofInt]
  exact Int.toNat_of_nonneg (Int.emod_nonneg _ (by decide))

section Pcm

variable {l r : List Sample} {m : Nat} {x y : Sample}

theorem leField_pcmMono (hx : l[m]? = some x) : (leField (pcmMono l) (2 * m) 2 : Int) = quantize x % 65536 := by
  have hblock := leField_flatMap pcmBytes 2 pcmBytes_length l m 0 2 x hx le_rfl
  rw [Nat.add_zero] at hblock
  rw [pcmMono, hblock, leField_pcmBytes]

/-- A field of frame `m` of the stereo data. -/
theorem leField_pcmStereo (hx : l[m]? = some x) (hy : r[m]? = some y) {o : Nat} (ho : o + 2 ≤ 4) :
    leField (pcmStereo l r) (4 * m + o) 2 = leField (pcmBytes x ++ pcmBytes y) o 2 :=
  leField_flatMap (fun p : Sample × Sample => pcmBytes p.1 ++ pcmBytes p.2) 4 (fun _ => rfl) (l.zip r) m o 2 (x, y)
    (List.getElem?_zip_eq_some.2 ⟨hx, hy⟩) ho

theorem leField_pcmStereo_left (hx : l[m]? = some x) (hy : r[m]? = some y) :
    (leField (pcmStereo l r) (4 * m) 2 : Int) = quantize x % 65536 := by
  have hframe := leField_pcmStereo hx hy (o := 0) (by decide)
  rw [Nat.add_zero, leField_append_left _ _ 0 2 (pcmBytes_length x).ge] at hframe
  rw [hframe, leField_pcmBytes]

theorem leField_pcmStereo_right (hx : l[m]? = some x) (hy : r[m]? = some y) :
    (leField (pcmStereo l r) (4 * m + 2) 2 : Int) = quantize y % 65536 := by
  have hright := leField_append_right (pcmBytes x) (pcmBytes y) 0 2
  rw [pcmBytes_length, Nat.add_zero] at hright
  rw [leField_pcmStereo hx hy le_rfl, hright, leField_pcmBytes]

end Pcm

/-! ## The stream TOWAV writes (44_wav.md R206) -/

/-- The header and the PCM data of the buffer the state holds. -/
def State.wavStream (s : State) : List Byte :=
  wavHeader s.smplen.toNat s.smpch.toNat s.cfg.sampleHz.toNat ++ s.pcmData

/-- The checks and the capacity conditions of TOWAV pass (60_exceptions.md R222, 20_memory.md R60). -/
structure StreamFits (s : State) : Prop where
  channels : s.smpch = 1 ∨ s.smpch = 2
  rate : s.cfg.sampleHz ≠ 0
  capacity : 44 + dataLength s.smplen.toNat s.smpch.toNat ≤ s.params.wavCap.val
  byteRate : s.cfg.sampleHz.toNat * 2 * s.smpch.toNat < 2 ^ 32

section Stream

variable {s : State} {m : Nat} {x : Sample}

theorem exec_towav_fits (h : StreamFits s) :
    exec .towav s = .next { s with wav := s.wavStream, wavlen := lengthReg s.wavStream.length, status := 0x02 } := by
  obtain ⟨hch, hrate, hcap, hbyte⟩ := h
  have hchecks : ¬((s.smpch ≠ 1 ∧ s.smpch ≠ 2) ∨ s.cfg.sampleHz = 0) := by tauto
  rw [exec, execTowav, if_neg hchecks, if_neg hcap.not_gt, if_neg hbyte.not_ge, normalEnd_eq, ← State.wavStream,
    State.setWav]

theorem wavStream_length (hwf : Memory.wf s) (hch : s.smpch = 1 ∨ s.smpch = 2) :
    s.wavStream.length = 44 + dataLength s.smplen.toNat s.smpch.toNat := by
  rw [State.wavStream, List.length_append, wavHeader_length, pcmData_length hwf hch]

theorem pcmData_mono (hwf : Memory.wf s) (hch : s.smpch = 1) : s.pcmData = pcmMono s.smpl := by
  rw [State.pcmData, validLeft_of_wf hwf, hch]
  rfl

theorem pcmData_stereo (hwf : Memory.wf s) (hch : s.smpch = 2) : s.pcmData = pcmStereo s.smpl s.smpr := by
  rw [State.pcmData, validLeft_of_wf hwf, validRight_of_wf hwf, if_pos hch]

/-- The channels of a stereo buffer are equally long. -/
theorem stereo_length_eq (hwf : Memory.wf s) (hch : s.smpch = 2) : s.smpr.length = s.smpl.length := by
  obtain ⟨-, ⟨-, -, -, hright, -⟩, -⟩ := hwf
  rw [hright, if_pos hch]

theorem wavStream_left (hwf : Memory.wf s) (hch : s.smpch = 1 ∨ s.smpch = 2) (hx : s.smpl[m]? = some x) :
    (leField s.wavStream (44 + 2 * (m * s.smpch.toNat)) 2 : Int) = quantize x % 65536 := by
  rw [State.wavStream, leField_wavHeader_append]
  rcases hch with hch | hch
  · rw [pcmData_mono hwf hch, hch, ← leField_pcmMono hx]
    congr 2
    change 2 * (m * 1) = 2 * m
    omega
  · obtain ⟨hm, -⟩ := List.getElem?_eq_some_iff.1 hx
    have hy := List.getElem?_eq_getElem (l := s.smpr) (hm.trans_eq (stereo_length_eq hwf hch).symm)
    rw [pcmData_stereo hwf hch, hch, ← leField_pcmStereo_left hx hy]
    congr 2
    change 2 * (m * 2) = 4 * m
    omega

theorem wavStream_right (hwf : Memory.wf s) (hch : s.smpch = 2) (hy : s.smpr[m]? = some x) :
    (leField s.wavStream (44 + 2 * (m * s.smpch.toNat + 1)) 2 : Int) = quantize x % 65536 := by
  obtain ⟨hm, -⟩ := List.getElem?_eq_some_iff.1 hy
  have hx := List.getElem?_eq_getElem (l := s.smpl) (hm.trans_eq (stereo_length_eq hwf hch))
  rw [State.wavStream, leField_wavHeader_append, pcmData_stereo hwf hch, hch, ← leField_pcmStereo_right hx hy]
  congr 2
  change 2 * (m * 2 + 1) = 4 * m + 2
  omega

end Stream

/-- Settles O45: the stream fits, so no field of the header wraps around. -/
theorem towavWritesTheStream : Obligations.TowavWritesTheStream := by
  intro s hwf hch hrate hcap hbyte
  have hlen := wavStream_length hwf hch
  have hbound := hcap.trans (cap_le s.params.wavCap)
  have hfs := s.cfg.sampleHz.isLt
  have hchlt := s.smpch.isLt
  refine ⟨_, _, exec_towav_fits ⟨hch, hrate, hcap, hbyte⟩, ?_, hlen,
    wavHeader_riffTag _ _ _ _, ?_, wavHeader_waveTags _ _ _ _, wavHeader_formatSize _ _ _ _, wavHeader_format _ _ _ _,
    ?_, ?_, ?_, ?_, wavHeader_sampleBits _ _ _ _, wavHeader_dataTag _ _ _ _, ?_,
    fun m x _ => wavStream_left hwf hch, fun m x _ => wavStream_right hwf⟩
  · rw [hlen]
    exact lengthReg_toNat hbound
  · exact (wavHeader_riffSize _ _ _ _).trans (Nat.mod_eq_of_lt (by unfold capBound dataLength at *; omega))
  · exact (wavHeader_channels _ _ _ _).trans (Nat.mod_eq_of_lt (by omega))
  · exact (wavHeader_rate _ _ _ _).trans (Nat.mod_eq_of_lt hfs)
  · exact (wavHeader_byteRate _ _ _ _).trans (Nat.mod_eq_of_lt hbyte)
  · exact (wavHeader_blockAlign _ _ _ _).trans (Nat.mod_eq_of_lt (by omega))
  · exact (wavHeader_dataSize _ _ _ _).trans (Nat.mod_eq_of_lt (by unfold capBound dataLength at *; omega))

/-! ## The shape of WAV (44_wav.md R203, 10_state.md R33) -/

/-- Of all commands TOWAV alone writes WAV. -/
theorem exec_wav_cases {i : Instr} {s t : State} (h : exec i s = .next t) :
    t.wav = s.wav ∨ (StreamFits s ∧ t.wav = s.wavStream) := by
  rcases exec_next_cases h with ⟨k, rfl, -⟩ | ⟨u, rfl, hw⟩
  · exact .inl rfl
  · cases hi : writesSlot i .wavlen with
    | false =>
      have hsame : Destination.wav.Same s u := commandWrites_same hw hi
      exact .inl (Prod.mk.inj hsame).1
    | true =>
      obtain rfl : i = .towav := by
        cases i with
        | towav => rfl
        | _ => cases hi
      obtain ⟨hch, hrate, hcap, hbyte, out, rfl, rfl⟩ := hw
      exact .inr ⟨⟨hch, hrate, hcap, hbyte⟩, rfl⟩

theorem writeSlot_wav (r : Slot) (d : Word) (s : State) : (writeSlot r d s).wav = s.wav := by
  cases r <;> rfl

/-- Everything a step can do to WAV: nothing, a reset, or TOWAV's stream. -/
theorem step_wav_cases {s t : State} (h : step s = .next t) :
    t.wav = s.wav ∨ t.wav = [] ∨ (StreamFits s ∧ t.wav = s.wavStream) := by
  rcases step_next_cases h with ⟨-, rfl⟩ | ⟨rest, -, rfl⟩ | ⟨a, rest, -, -, rfl⟩ | ⟨a, rest, -, -, -, rfl⟩ |
    ⟨a, d, rest, -, -, -, hrun⟩ | ⟨a, d, rest, r, -, -, -, -, rfl⟩ | ⟨a, d, rest, -, -, -, rfl⟩
  · exact .inl rfl
  · exact .inr (.inl rfl)
  · obtain ⟨v, n, hread⟩ := answerRead_eq a (s.takeEvent rest)
    rw [hread]
    exact .inl rfl
  · exact .inl rfl
  · obtain ⟨u, rfl, ⟨i, -, hi⟩ | ⟨-, rfl⟩⟩ := runCommand_next hrun
    · rw [State.openBusyWindow_wav]
      obtain hwav | ⟨⟨hch, hrate, hcap, hbyte⟩, hwav⟩ := exec_wav_cases hi
      · exact .inl hwav
      · exact .inr (.inr ⟨⟨hch, hrate, hcap, hbyte⟩, hwav⟩)
    · exact .inl (State.openBusyWindow_wav _)
  · exact .inl (writeSlot_wav r d _)
  · exact .inl rfl

theorem wavShape_of_wavStream {s t : State} (hwf : Memory.wf s) (hfits : StreamFits s) (h : t.wav = s.wavStream) :
    t.wavShape := by
  have hlen := wavStream_length hwf hfits.channels
  have hcap := hfits.capacity.trans (cap_le s.params.wavCap)
  have hriff : leField s.wavStream 4 4 = _ := wavHeader_riffSize _ _ _ _
  have hdata : leField s.wavStream 40 4 = _ := wavHeader_dataSize _ _ _ _
  rw [State.wavShape, h, hlen, hriff, hdata]
  unfold capBound at hcap
  exact .inr ⟨Nat.le_add_right _ _, wavHeader_riffTag _ _ _ _, by omega, by omega⟩

/-- Settles O54: a step leaves WAV, empties it, or writes a stream that fits, whose size fields do not wrap around. -/
theorem everyStepKeepsTheWavHeader : Obligations.EveryStepKeepsTheWavHeader := by
  intro s t hinv hs h
  obtain ⟨hwf, -⟩ := hinv
  rcases step_wav_cases h with hwav | hwav | ⟨hfits, hwav⟩
  · rwa [State.wavShape, hwav]
  · exact .inl hwav
  · exact wavShape_of_wavStream hwf hfits hwav

end Sys2Proof.Machine

/-! # Family 60_exceptions: the checks, the error entry, STATUS after a command, what is refused -/

namespace Sys2Proof.Machine

/-! ## Errors change STATUS alone (60_exceptions.md R220, R221, R225, R226) -/

/-- Settles O47: an error entry sets STATUS alone, and a normal end has ERR = 0. -/
theorem errorEndChangesStatusAlone : Obligations.ErrorEndChangesStatusAlone := by
  intro i s t h herr
  rcases exec_next_cases h with ⟨k, rfl, -⟩ | ⟨u, rfl, -⟩
  · rfl
  · rw [State.setStatus_status] at herr
    exact absurd herr (by decide)

/-- Settles O48: the error kinds of a command and the normal end, with their STATUS values. -/
theorem statusAfterACommand : Obligations.StatusAfterACommand := by
  intro i s t h
  obtain ⟨hformat, hargument, -⟩ := statusErrorEnd_values
  rcases exec_next_cases h with ⟨k, rfl, ⟨rfl, hi⟩ | ⟨rfl, hi⟩⟩ | ⟨u, rfl, -⟩
  · exact .inr (.inl ⟨hformat, hi⟩)
  · exact .inr (.inr ⟨hargument, hi⟩)
  · exact .inl rfl

/-! ## A failed check is InvalidArgument (60_exceptions.md R222) -/

section Checks

variable {i : Instr} {s : State}

theorem exec_render_illegal {idx : Nat} (hwf : Memory.wf s) (h : FailsCheck (.render idx) s) :
    exec (.render idx) s = raise .invalidArgument s := by
  cases hstyle : renderStyle s.cfg with
  | none => simp only [exec, execRender, hstyle]
  | some m =>
    have hlegal := (renderStyle_eq_some.1 hstyle).1
    have hidx : s.seglen.toNat ≤ idx := h.resolve_left (not_not.2 hlegal)
    have hnone : s.validSegs[idx]? = none := by
      rw [validSegs_of_wf hwf, List.getElem?_eq_none_iff, ← hwf.1.1]
      exact hidx
    simp only [exec, execRender, hstyle, hnone]

theorem exec_assemble_illegal (h : renderStyle s.cfg = none) : exec .assemble s = raise .invalidArgument s := by
  simp only [exec, execAssemble, h]

theorem exec_generate_illegal (h : generateStyle s.cfg = none) : exec .generate s = raise .invalidArgument s := by
  simp only [exec, execGenerate, h]

theorem exec_of_failsCheck (hwf : Memory.wf s) (h : FailsCheck i s) : exec i s = raise .invalidArgument s := by
  cases i with
  | nop | hexclr | decodehex | fields | pack => exact h.elim
  | encframe => exact if_pos h
  | encrep => exact if_pos h
  | render idx => exact exec_render_illegal hwf h
  | assemble => exact exec_assemble_illegal (renderStyle_eq_none.2 h)
  | generate => exact exec_generate_illegal (generateStyle_eq_none.2 h)
  | genword => exact exec_genword_illegal (generateStyle_eq_none.2 h)
  | towav => exact if_pos h.symm

/-! ## No failed check, no InvalidArgument -/

/-- The result is a normal end or none at all: no error entry. -/
def NoError (r : Result) : Prop := ∀ t, r = .next t → t.status = statusNormalEnd

theorem noError_normalEnd (s : State) : NoError (normalEnd s) := by
  intro t h
  rw [normalEnd_next.1 h]
  rfl

/-- A capacity condition raises no error: it refuses (60_exceptions.md R237). -/
theorem noError_capped {p : Prop} [Decidable p] {x : Refusal} {r : Result} (hr : NoError r) :
    NoError (if p then refuse x else r) := by
  by_cases hp : p
  · rw [if_pos hp]; nofun
  · rwa [if_neg hp]

theorem noError_checked {p : Prop} [Decidable p] {k : ErrorKind} {r : Result} (hp : ¬p) (hr : NoError r) :
    NoError (if p then raise k s else r) := by
  rwa [if_neg hp]

theorem noError_renderInto (m : Modulation) (segs : List Segment) (s : State) : NoError (renderInto m segs s) :=
  noError_capped (noError_normalEnd _)

theorem noError_generateInto (m : Modulation) (s : State) : NoError (generateInto m s) :=
  noError_capped (noError_renderInto _ _ _)

theorem noError_render {idx : Nat} (hwf : Memory.wf s) (h : ¬FailsCheck (.render idx) s) :
    NoError (exec (.render idx) s) := by
  obtain ⟨hlegal, hidx⟩ := not_or.1 h
  obtain ⟨m, hstyle, -⟩ := renderLegal_style (not_not.1 hlegal)
  have hlt : idx < s.seg.length := hwf.1.1 ▸ Nat.not_le.1 hidx
  rw [exec_render_eq_renderInto hstyle (by rw [validSegs_of_wf hwf]; exact List.getElem?_eq_getElem hlt)]
  exact noError_renderInto _ _ _

/-- DECODEHEX makes no check of the table; its own error is FormatError. -/
theorem noError_of_not_failsCheck (hwf : Memory.wf s) (hi : i ≠ .decodehex) (h : ¬FailsCheck i s) :
    NoError (exec i s) := by
  cases i with
  | nop | hexclr | fields | pack => exact noError_normalEnd _
  | decodehex => exact absurd rfl hi
  | encframe => exact noError_checked h (noError_capped (noError_normalEnd _))
  | encrep => exact noError_checked h (noError_capped (noError_normalEnd _))
  | render idx => exact noError_render hwf h
  | assemble =>
    obtain ⟨m, hstyle, -⟩ := renderLegal_style (not_not.1 h)
    rw [exec_assemble_eq_renderInto hstyle]
    exact noError_renderInto _ _ _
  | generate =>
    obtain ⟨m, hstyle⟩ := generateStyle_of_not_failsCheck h
    rw [exec_generate_eq_generateInto hstyle]
    exact noError_generateInto _ _
  | genword =>
    obtain ⟨m, hstyle⟩ := generateStyle_of_not_failsCheck h
    rw [exec_genword_eq_generateInto hstyle]
    exact noError_generateInto _ _
  | towav => exact noError_checked (mt Or.symm h) (noError_capped (noError_capped (noError_normalEnd _)))

end Checks

/-- Settles O46: the checks come first and their failure is the error entry; past them no command but DECODEHEX can
raise an error, and that one's is FormatError. -/
theorem failedChecksAreInvalidArgument : Obligations.FailedChecksAreInvalidArgument := by
  refine fun i s hwf => ⟨exec_of_failsCheck hwf, fun hpass t ht hstatus => ?_⟩
  rcases statusAfterACommand i s t ht with h | ⟨h, -⟩ | ⟨-, hi⟩
  · exact absurd (h.symm.trans hstatus) (by decide)
  · exact absurd (h.symm.trans hstatus) (by decide)
  · have hnormal : t.status = statusNormalEnd := noError_of_not_failsCheck hwf hi hpass t ht
    exact absurd (hnormal.symm.trans hstatus) (by decide)

/-! ## Outside a busy window every transaction is taken (60_exceptions.md R227, R231, R237) -/

theorem step_idle {s : State} (hp : s.pending = []) : step s = .next s := by
  rw [step, stepEvent, hp]

theorem step_reset {s : State} {rest : List BusEvent} (hp : s.pending = .reset :: rest) :
    step s = .next (s.takeEvent rest).hardReset := by
  rw [step, stepEvent, hp]; rfl

/-- There are no faults, so what is not refused has a next state. -/
theorem exists_next_of_not_isRefused {r : Result} (h : ¬IsRefused r) : ∃ t, r = .next t := by
  cases r with
  | next t => exact ⟨t, rfl⟩
  | fault f => cases f
  | refused x => exact absurd ⟨x, rfl⟩ h

/-- A command word is taken when a check fails or the result fits: OP and the host's queue are in neither condition. -/
theorem exists_runCommand_next {d : Word} {s : State} (hwf : Memory.wf s)
    (h : ∀ i, decode d = .command i → ¬ExceedsCapacity i s ∨ FailsCheck i s) : ∃ t, runCommand d s = .next t := by
  cases hd : decode d with
  | illegal r => exact ⟨_, runCommand_illegal ⟨r, hd⟩ s⟩
  | command i =>
    have hfits : ¬(¬FailsCheck i (s.setOp d) ∧ ExceedsCapacity i (s.setOp d)) :=
      fun ⟨hpass, hover⟩ => (h i hd).elim (· hover) hpass
    obtain ⟨t, ht⟩ := exists_next_of_not_isRefused (mt (refusedExactlyOverCapacity i (s.setOp d) hwf).1 hfits)
    exact ⟨t.openBusyWindow, by rw [runCommand_command hd, ht, onNext_next]⟩

/-- Settles O13: of all events only a write to OP can be refused while BUSY = 0, and only over a capacity. -/
theorem onlyCapacityIsRefused : Obligations.OnlyCapacityIsRefused := by
  intro s hwf hb hcmd
  cases hp : s.pending with
  | nil => exact ⟨s, step_idle hp⟩
  | cons e rest =>
    cases e with
    | read a => exact ⟨_, step_read hp hb⟩
    | reset => exact ⟨_, step_reset hp⟩
    | write a d =>
      cases ht : targetSlot a with
      | none => exact ⟨_, step_write_none hp hb ht⟩
      | some r =>
        have ha : a.toNat = r.number := targetSlot_eq_some.1 ht
        by_cases hr : r = .op
        · subst hr
          have hzero : a = 0 := BitVec.eq_of_toNat_eq ha
          rw [step_write_op hp hb ha]
          exact exists_runCommand_next hwf fun i hd => hcmd d rest i (hzero ▸ hp) hd
        · exact ⟨_, step_write_slot hp hb ha hr⟩

end Sys2Proof.Machine

/-! # Family 70_reset_and_hazards: the hardware reset -/

namespace Sys2Proof.Machine

/-- Of the state before it a reset event keeps the open parameters and the draw counter; of the host's queue, what
comes after the event (log entry 11). -/
theorem hardReset_takeEvent (s : State) (rest : List BusEvent) :
    (s.takeEvent rest).hardReset = { State.reset with params := s.params, draws := s.draws, pending := rest } := rfl

/-- Settles O15: the step of a reset event asks nothing of BUSY, so it is the hard reset in every state. -/
theorem hardwareResetFromAnyState : Obligations.HardwareResetFromAnyState := by
  intro s rest hp
  rw [step_reset hp, hardReset_takeEvent]

end Sys2Proof.Machine
